-- ==== Sys2Proof/Word.lean ====
section
/-! DEFINITION. The words of the CORE (00_scope.md rules R4 to R9): bytes, 32-bit words, the 16-bit command word, the 6-bit
window offset, the byte arrays of the register tuple, and the CFB direction. Bit 0 is the least significant bit (R4) and
element 0 of an array is its first byte (R5). -/

namespace Sys2Proof

/-- One byte: the only access size of the host bus (R51). -/
abbrev Byte := BitVec 8

/-- A 32-bit word: a key word or a Feistel half (R35, R102). -/
abbrev Word := BitVec 32

/-- A command word `LEN || c`, 16 bits (R80, R81). -/
abbrev CommandWord := BitVec 16

/-- A host register offset `off[5:0]` (R50). -/
abbrev Offset := BitVec 6

/-- An array of 8 bytes: a block, an IV, a chunk buffer, the feedback register (R23 to R25, R36, R37). -/
abbrev Block := Vector Byte 8

/-- The 32-byte key buffer (R22). -/
abbrev KeyBytes := Vector Byte 32

/-- The key word file, eight 32-bit words (R35). -/
abbrev KeyFile := Vector Word 8

/-- The eight substitution tables as R3 types them: nibble position, then nibble value. -/
abbrev SBox := Fin 8 → Fin 16 → Fin 16

/-- The direction of a CFB transform, `DIR` of a command word and `STATUS.MODE` (R32, R81). -/
inductive Direction
  /-- 0: encrypt. -/
  | encrypt
  /-- 1: decrypt. -/
  | decrypt
deriving DecidableEq, Repr

end Sys2Proof
end

