-- ==== Sys2Proof/Syntax.lean ====
section
/-! DEFINITION. The commands of the CORE, its "instructions": one constructor for each row of spec/opcode_table.json
(30_encoding.md rule R84). -/

namespace Sys2Proof

/-- A decoded command word. Every command carries the `LEN` byte its word presents, an unsigned count (R81, R83); CFBINIT,
which ignores it (R142), carries it too, so that a legal command word and its instruction determine each other. -/
inductive Instr
  /-- LDKEY: load the key (R100). -/
  | ldkey (len : Nat)
  /-- EBLK: encrypt one block (R111). -/
  | eblk (len : Nat)
  /-- LDIV: load the IV (R140). -/
  | ldiv (len : Nat)
  /-- CFBINIT: start a CFB transform in a direction (R142). -/
  | cfbinit (len : Nat) (dir : Direction)
  /-- CFBCHUNK: process one chunk (R144). -/
  | cfbchunk (len : Nat)
deriving DecidableEq, Repr

end Sys2Proof
end

