-- ==== Sys2Proof/Decode.lean ====
section
/-! DEFINITION. The command decoder (30_encoding.md rules R81 and R84 to R88) and, after it, the encoder written from the same
format. The decoder is total: each of the 65536 command words is one of the five commands or illegal, for a named reason. -/

namespace Sys2Proof

/-- CW[15:8], the byte count presented (R81). -/
def cwLen (w : CommandWord) : Byte := w.extractLsb' 8 8

/-- CW[7:0], the byte written to CMD (R80). -/
def cwByte (w : CommandWord) : Byte := w.extractLsb' 0 8

/-- CW[7:5], reserved, must be 000 (R81). -/
def cwRsv (w : CommandWord) : BitVec 3 := w.extractLsb' 5 3

/-- CW[4], the direction bit (R81). -/
def cwDir (w : CommandWord) : BitVec 1 := w.extractLsb' 4 1

/-- CW[3:0], the operation code (R81). -/
def cwOp (w : CommandWord) : BitVec 4 := w.extractLsb' 0 4

/-- The direction a DIR bit stands for: 0 encrypt, 1 decrypt (R81). -/
def dirOfBit (b : BitVec 1) : Direction := if b = 0#1 then .encrypt else .decrypt

/-- The DIR bit of a direction (R81). -/
def dirBit : Direction → BitVec 1
  | .encrypt => 0#1
  | .decrypt => 1#1

/-- Why a command word is illegal (the three causes of R85). Each is reported as IllegalCommand (R180). -/
inductive IllegalWord
  /-- CW[7:5] is not 000. -/
  | reservedBits
  /-- OP is 0x0 or one of 0x6 to 0xF. -/
  | unknownOp
  /-- DIR = 1 and OP is not CFBINIT. -/
  | dirNotAllowed
deriving DecidableEq, Repr

/-- What a command word decodes to (R86). -/
inductive Decoded
  /-- One of the five commands. -/
  | command (i : Instr)
  /-- IllegalCommand, with its cause. -/
  | illegal (why : IllegalWord)
deriving DecidableEq, Repr

/-- A command that must have DIR = 0 (R83, R85). -/
def needsDirZero (w : CommandWord) (i : Instr) : Decoded :=
  if cwDir w = 0#1 then .command i else .illegal .dirNotAllowed

/-- The decoding function of R88. LEN never takes part in selecting the command (R84). -/
def decode (w : CommandWord) : Decoded :=
  let len := (cwLen w).toNat
  if cwRsv w ≠ 0#3 then .illegal .reservedBits
  else if cwOp w = 0x1#4 then needsDirZero w (.ldkey len)
  else if cwOp w = 0x2#4 then needsDirZero w (.eblk len)
  else if cwOp w = 0x3#4 then needsDirZero w (.ldiv len)
  else if cwOp w = 0x4#4 then .command (.cfbinit len (dirOfBit (cwDir w)))
  else if cwOp w = 0x5#4 then needsDirZero w (.cfbchunk len)
  else .illegal .unknownOp

/-- A command word from its four fields, LEN || RSV || DIR || OP with RSV = 000 (R81). -/
def packWord (len : Nat) (dir : BitVec 1) (op : BitVec 4) : CommandWord :=
  BitVec.ofNat 8 len ++ (0#3 ++ (dir ++ op))

/-- The command word of an instruction (R81, R84). -/
def encode : Instr → CommandWord
  | .ldkey len => packWord len 0#1 0x1#4
  | .eblk len => packWord len 0#1 0x2#4
  | .ldiv len => packWord len 0#1 0x3#4
  | .cfbinit len dir => packWord len (dirBit dir) 0x4#4
  | .cfbchunk len => packWord len 0#1 0x5#4

/-- The command word that the low `nbits` bits of `w` stand for, the bits above them zero. -/
def tableWord (nbits w : Nat) : CommandWord := BitVec.ofNat 16 (w % 2 ^ nbits)

/-- The instruction the decoder reads from an opcode-table word: one 16-bit command word is the whole instruction (R87). -/
def decodeTableWord (nbits w : Nat) : Option Instr :=
  match decode (tableWord nbits w) with
  | .command i => some i
  | .illegal _ => none

end Sys2Proof
end

