-- ==== Sys2Proof/Config.lean ====
section
/-! DEFINITION. The fixed constants of the CORE (00_scope.md rule R2), the OPEN parameters of 92_eei_decisions.md section 2,
and the two S-box test configurations of 93_implementation_defined.md section 4. -/

namespace Sys2Proof

/-- Bytes in a block (R2). -/
abbrev Config.blockBytes : Nat := 8

/-- Bytes in a key (R2). -/
abbrev Config.keyBytes : Nat := 32

/-- 32-bit words in a key (R2). -/
abbrev Config.keyWords : Nat := 8

/-- Feistel rounds of one block transform (R2). -/
abbrev Config.rounds : Nat := 32

/-- Bit positions of the left rotation (R2). -/
abbrev Config.rot : Nat := 11

/-- Substitution tables, one for each nibble position (R2). -/
abbrev Config.sboxCount : Nat := 8

/-- Bytes in an IV (R2). -/
abbrev Config.ivBytes : Nat := 8

/-- The shortest chunk (R2). -/
abbrev Config.chunkMin : Nat := 1

/-- The longest chunk (R2). -/
abbrev Config.chunkMax : Nat := 8

/-- OPEN parameter `SBOX` (R3, R38, decision D3): a constant without a body, so that nothing can be proved of its values. -/
opaque Config.sbox : SBox

/-- OPEN parameter `CORE_BASE` (R50, decision D5): the host physical address of offset 0. No rule of the CORE reads it. -/
opaque Config.coreBase : Nat

/-- Test configuration SBOX_ID (93_implementation_defined.md section 4.1). The machine never reads it. -/
def Config.sboxId : SBox := fun _ n => n

/-- The rows of the test configuration SBOX_MAGMA (93_implementation_defined.md section 4.2), row `p` for position `p`. -/
def Config.magmaRows : Vector (Vector (Fin 16) 16) 8 :=
  #v[#v[12, 4, 6, 2, 10, 5, 11, 9, 14, 8, 13, 7, 0, 3, 15, 1],
     #v[6, 8, 2, 3, 9, 10, 5, 12, 1, 14, 4, 7, 11, 13, 0, 15],
     #v[11, 3, 5, 8, 2, 15, 10, 13, 14, 1, 7, 4, 12, 9, 6, 0],
     #v[12, 8, 2, 1, 13, 4, 15, 6, 7, 0, 10, 5, 3, 14, 9, 11],
     #v[7, 15, 5, 10, 8, 1, 6, 13, 0, 9, 3, 14, 11, 4, 2, 12],
     #v[5, 13, 15, 6, 9, 2, 12, 10, 11, 7, 8, 1, 4, 3, 14, 0],
     #v[8, 14, 2, 5, 6, 9, 1, 12, 15, 4, 11, 0, 13, 10, 3, 7],
     #v[1, 7, 14, 13, 0, 5, 8, 3, 4, 15, 10, 6, 9, 12, 11, 2]]

/-- Test configuration SBOX_MAGMA (93_implementation_defined.md section 4.2). The machine never reads it. -/
def Config.sboxMagma : SBox := fun p n => Config.magmaRows[p][n]

end Sys2Proof
end

