-- ==== Sys2Proof/Machine/Operands.lean ====
section
/-! DEFINITION. How operands are made from bytes and words: the arithmetic of 00_scope.md rules R7 to R9, big-endian packing
(20_memory.md rule R55), key words and block halves (40_block_cipher.md rules R101, R102, R109), nibbles (R4), and the
command word a CMD write presents (30_encoding.md rule R80). -/

namespace Sys2Proof.Machine

/-- `a +32 b`: addition modulo 2^32, the carry discarded (R7, R103). -/
def add32 (a b : Word) : Word := a + b

/-- `rotl32(x, r)`: circular left rotation (R8, R106). -/
def rotl32 (x : Word) (r : Nat) : Word := x.rotateLeft r

/-- `be32(b0, b1, b2, b3)`: `b0` is the most significant byte (R9). -/
def be32 (b0 b1 b2 b3 : Byte) : Word := b0 ++ (b1 ++ (b2 ++ b3))

/-- Byte `j` of `bytes_be32(w)`, the most significant byte first (R9). -/
def byteBe32 (w : Word) (j : Fin 4) : Byte := w.extractLsb' (8 * (3 - j.val)) 8

/-- The nibble of `w` at position `p`, `w[4p+3:4p]` (R4). -/
def nibble (w : Word) (p : Fin 8) : Fin 16 := (w.extractLsb' (4 * p.val) 4).toFin

/-- `KeyWords(KB)` (R101): word `i` is bytes 4i to 4i+3, the lowest-indexed byte most significant. -/
def keyWords (kb : KeyBytes) : KeyFile :=
  Vector.ofFn fun i : Fin 8 => be32 kb[4 * i.val] kb[4 * i.val + 1] kb[4 * i.val + 2] kb[4 * i.val + 3]

/-- The two halves of a block inside the Feistel network (R102). -/
structure Halves where
  /-- The left half L. -/
  left : Word
  /-- The right half R. -/
  right : Word
deriving DecidableEq, Repr

/-- The halves of an input block: bytes 0 to 3 and bytes 4 to 7, big-endian (R102). -/
def blockHalves (x : Block) : Halves where
  left := be32 x[0] x[1] x[2] x[3]
  right := be32 x[4] x[5] x[6] x[7]

/-- `bytes_be32(hi) || bytes_be32(lo)`: the 8 bytes of two words (R6, R9). -/
def bytesOfWords (hi lo : Word) : Block :=
  #v[byteBe32 hi 0, byteBe32 hi 1, byteBe32 hi 2, byteBe32 hi 3, byteBe32 lo 0, byteBe32 lo 1, byteBe32 lo 2, byteBe32 lo 3]

/-- `b || zeros(8 - n)` for the first 8 bytes `b` of a sequence (R141, R147). -/
def padBlock (bytes : List Byte) : Block := Vector.ofFn fun j : Fin 8 => bytes.getD j.val 0#8

/-- The command word of a CMD write, `CW = LEN || c` (R80). -/
def commandWord (len c : Byte) : CommandWord := len ++ c

end Sys2Proof.Machine
end

