-- ==== Sys2Proof/Machine/Cipher.lean ====
section
/-! DEFINITION. The pure functions of the block unit (40_block_cipher.md rules R103 to R110): key mixing, key schedule,
substitution, rotation, round function, Feistel round and the forward transform E. Each takes the S-box tables as an argument
(rule R3); the machine gives them `Config.sbox`. There is no inverse transform (R112). -/

namespace Sys2Proof.Machine

/-- The key word index of round `i`: three times forward, then once in reverse (R104). -/
def subkeyIndex (i : Fin 32) : Fin 8 :=
  if i.val < 24 then ⟨i.val % 8, by omega⟩ else ⟨7 - i.val % 8, by omega⟩

/-- Nibble position `p` mapped through table `SBOX[p]` (R105, R114). -/
def substLane (sbox : SBox) (m : Word) (p : Fin 8) : BitVec 4 := BitVec.ofFin (sbox p (nibble m p))

/-- The substitution layer: each nibble through its own table, back to the same position (R105). -/
def subst (sbox : SBox) (m : Word) : Word :=
  substLane sbox m 7 ++ (substLane sbox m 6 ++ (substLane sbox m 5 ++ (substLane sbox m 4 ++
    (substLane sbox m 3 ++ (substLane sbox m 2 ++ (substLane sbox m 1 ++ substLane sbox m 0))))))

/-- The round function `F(k, r)` (R107). -/
def roundF (sbox : SBox) (k r : Word) : Word := rotl32 (subst sbox (add32 r k)) Config.rot

/-- One Feistel round with subkey `k`: both new halves come from the old pair (R108). -/
def feistelRound (sbox : SBox) (k : Word) (h : Halves) : Halves where
  left := h.right
  right := roundF sbox k h.right ^^^ h.left

/-- The halves after the rounds 0 to `n - 1`, in increasing order (R110), for `n` up to 32. -/
def halvesAfter (sbox : SBox) (key : KeyFile) (x : Block) : (n : Nat) → n ≤ 32 → Halves
  | 0, _ => blockHalves x
  | n + 1, h =>
    feistelRound sbox key[subkeyIndex ⟨n, h⟩] (halvesAfter sbox key x n (Nat.le_of_succ_le h))

/-- The forward block transform `E(K, X)`: 32 rounds, then the final swap (R109, R110). -/
def blockTransform (sbox : SBox) (key : KeyFile) (x : Block) : Block :=
  let h := halvesAfter sbox key x Config.rounds (Nat.le_refl _)
  bytesOfWords h.right h.left

end Sys2Proof.Machine
end

