-- ==== Sys2Proof/Machine/State.lean ====
section
/-! DEFINITION. The architectural state of the CORE (10_state.md rule R20) as plain data, the host events that drive it, and
its state after reset (70_reset_and_hazards.md rule R201). -/

namespace Sys2Proof.Machine

/-- The eight result codes of ERR, 0x00 to 0x07 in this order (60_exceptions.md rule R173; the values 0x08 to 0xFF never
appear in ERR). -/
inductive ErrCode
  /-- 0x00: the command succeeded. -/
  | ok
  /-- 0x01: LDKEY with LEN other than 32 (R177). -/
  | invalidKeySize
  /-- 0x02: LDIV with LEN other than 8 (R178). -/
  | invalidIVSize
  /-- 0x03: EBLK with LEN other than 8, CFBCHUNK with LEN outside 1 to 8 (R179). -/
  | invalidBlockSize
  /-- 0x04: an illegal command word (R180). -/
  | illegalCommand
  /-- 0x05: EBLK or CFBINIT with no key loaded (R181). -/
  | keyNotLoaded
  /-- 0x06: CFBINIT with a key and no IV loaded (R182). -/
  | ivNotLoaded
  /-- 0x07: CFBCHUNK with no transform in progress (R183). -/
  | cfbNotActive
deriving DecidableEq, Repr

/-- A host access, one byte wide (30_encoding.md rule R82: RW, OFF and, for a write, DATA). -/
inductive Access
  /-- `MemRead(off, 1)`. -/
  | read (off : Offset)
  /-- `MemWrite(off, 1, v)`. -/
  | write (off : Offset) (v : Byte)
deriving DecidableEq, Repr

/-- What can happen to the CORE from outside: a host access (R60) or the platform's reset (R200), each between commands. -/
inductive HostEvent
  /-- One host access. -/
  | access (a : Access)
  /-- The platform asserts reset. -/
  | reset
deriving DecidableEq, Repr

/-- What the host learns from one access: what a `rd` records (30_encoding.md rule R89), or, the MODEL's own (log entry 2), that
a write faulted. -/
inductive Observation
  /-- The byte a read returned. -/
  | data (v : Byte)
  /-- The access `a` raised BusError, and returned no data (R172). -/
  | busError (a : Access)
deriving DecidableEq, Repr

/-- Why a host access faults. The CORE has one fault (60_exceptions.md rule R170). -/
inductive Fault
  /-- `BusError(off)`: raised by the bus operations `hostRead` and `hostWrite` for an access the register map does not
  permit (R171), and by nothing else; no state changes (R172). Safe: the spec names this fault. `step` records it for the
  host, which goes on with its next access (log entry 2). -/
  | busError (off : Offset)
deriving DecidableEq, Repr

/-- Why the model has no meaning for an instruction. -/
inductive Refusal
  /-- The instruction of that mnemonic has no meaning in the model. Raised by no arm of `exec`: all five commands have their
  meaning. Safe: a refusal is no next state. -/
  | notModelled (mnemonic : String)
deriving DecidableEq, Repr

/-- The register tuple of R20, field by field, and two fields of the MODEL's own: the host's side of the bus. -/
structure State where
  /-- KEYBUF[0..31], offsets 0x00 to 0x1F, write-only to the host (R22). -/
  keybuf : KeyBytes
  /-- IVBUF[0..7], offsets 0x20 to 0x27 (R23). -/
  ivbuf : Block
  /-- DIN[0..7], offsets 0x28 to 0x2F (R24). -/
  din : Block
  /-- DOUT[0..7], offsets 0x30 to 0x37, read-only to the host (R25). -/
  dout : Block
  /-- LEN, offset 0x39 (R27). -/
  len : Byte
  /-- ERR, offset 0x3B, read-only to the host (R34). -/
  err : ErrCode
  /-- STATUS.KEYV, bit 0 (R29). -/
  keyv : Bool
  /-- STATUS.IVV, bit 1 (R30). -/
  ivv : Bool
  /-- STATUS.ACTIVE, bit 2 (R31). -/
  active : Bool
  /-- STATUS.MODE, bit 3 (R32). -/
  mode : Direction
  /-- K[0..7], internal (R35). -/
  k : KeyFile
  /-- IVREG[0..7], internal (R36). -/
  ivreg : Block
  /-- FB[0..7], internal (R37). -/
  fb : Block
  /-- The MODEL's own: the host events still to come, the next one first (R60: one at a time, in issue order). -/
  pending : List HostEvent
  /-- The MODEL's own: what the host has learned so far, the oldest first; the program's observation of R89 is its part that
  reads gave (`State.programObservation`). -/
  observed : List Observation
deriving DecidableEq, Repr

/-- Eight zero bytes. -/
def zeroBlock : Block := Vector.replicate 8 0#8

/-- Thirty-two zero bytes. -/
def zeroKeyBytes : KeyBytes := Vector.replicate 32 0#8

/-- Eight zero words. -/
def zeroKeyFile : KeyFile := Vector.replicate 8 0#32

/-- The machine right after reset: every register at the value of R201, no host event issued yet and nothing observed. -/
def State.reset : State where
  keybuf := zeroKeyBytes
  ivbuf := zeroBlock
  din := zeroBlock
  dout := zeroBlock
  len := 0#8
  err := .ok
  keyv := false
  ivv := false
  active := false
  mode := .encrypt
  k := zeroKeyFile
  ivreg := zeroBlock
  fb := zeroBlock
  pending := []
  observed := []

end Sys2Proof.Machine
end

