-- ==== Sys2Proof/Machine/Ops.lean ====
section
/-! DEFINITION. The shared operations of the commands: ending a command with a result code (60_exceptions.md rule R174), the
ordered checks every command makes before it writes anything (rules R175, R176), and the register updates of the write matrix
(10_state.md rule R43). A command error is the CORE's only "exception": it saves nothing and redirects nothing (R185), and
there is no return from it (R186). -/

namespace Sys2Proof.Machine

/-- The end of a command: ERR takes its result code, nothing else changes (R34, R174). With a code other than OK this is
`fail CODE`, the one operation that takes a command error. -/
def State.setErr (s : State) (e : ErrCode) : State := { s with err := e }

/-- One precondition of a command: whether it holds, and the code the command fails with when it does not (R176). -/
structure Check where
  /-- The precondition holds. -/
  holds : Bool
  /-- The code of its failure. -/
  code : ErrCode
deriving DecidableEq, Repr

/-- The first check that fails decides the code; `none` when all hold (R176). -/
def firstFailure : List Check → Option ErrCode
  | [] => none
  | c :: rest => if c.holds then firstFailure rest else some c.code

/-- One command (R11, R175): its checks are made against the state at issue; a failing one ends the command with its code and
no other write (R42, R174); otherwise the command has its effect and ERR becomes OK (R34). -/
def runCommand (checks : List Check) (effect : State → State) (s : State) : Host.Outcome State Fault Refusal :=
  match firstFailure checks with
  | some code => .next (s.setErr code)
  | none => .next ((effect s).setErr .ok)

/-- LDKEY's writes besides ERR (R43, R100). -/
def State.loadKey (s : State) (words : KeyFile) : State := { s with k := words, keyv := true, active := false }

/-- EBLK's write besides ERR (R43, R111). -/
def State.putBlock (s : State) (y : Block) : State := { s with dout := y }

/-- LDIV's writes besides ERR (R43, R140). FB is not written. -/
def State.loadIv (s : State) (iv : Block) : State := { s with ivreg := iv, ivv := true, active := false }

/-- CFBINIT's writes besides ERR (R43, R142): the feedback register starts at the IV. -/
def State.startTransform (s : State) (dir : Direction) : State :=
  { s with fb := s.ivreg, mode := dir, active := true }

/-- CFBCHUNK's writes besides ERR (R43, R144): the output, the next feedback value, and the end of the transform after a
partial chunk (R148). -/
def State.putChunk (s : State) (out feedback : Block) (partialChunk : Bool) : State :=
  { s with dout := out, fb := feedback, active := if partialChunk then false else s.active }

/-- Reset: every register of R20 takes its reset value (R200, R201). The host's side of the bus is not part of the CORE. -/
def State.resetCore (s : State) : State :=
  { State.reset with pending := s.pending, observed := s.observed }

/-- The host learns `o`. -/
def State.observe (s : State) (o : Observation) : State := { s with observed := s.observed ++ [o] }

/-- Whether a `rd` statement recorded it: the byte the read returned or the BusError it raised (R89). A faulting write records
nothing for the program. -/
def Observation.ofRead : Observation → Bool
  | .data _ => true
  | .busError (.read _) => true
  | .busError (.write _ _) => false

/-- The observation of the host's program so far: what its `rd` statements recorded, in order, and nothing else (R89). -/
def State.programObservation (s : State) : List Observation := s.observed.filter Observation.ofRead

/-- The host events still to come (the model's own field). -/
def State.setPending (s : State) (events : List HostEvent) : State := { s with pending := events }

end Sys2Proof.Machine
end

