-- ==== Sys2Proof/Machine/BlockUnit.lean ====
section
/-! DEFINITION. The commands of the block unit: LDKEY and EBLK (40_block_cipher.md rules R100, R111). -/

namespace Sys2Proof.Machine

/-- LDKEY (R100): KEYBUF becomes the eight key words; a transform in progress ends (R41). -/
def execLdkey (len : Nat) (s : State) : Host.Outcome State Fault Refusal :=
  runCommand [⟨len == Config.keyBytes, .invalidKeySize⟩] (fun s => s.loadKey (keyWords s.keybuf)) s

/-- EBLK (R111): DOUT becomes the transform of DIN; the CFB state is not touched. -/
def execEblk (len : Nat) (s : State) : Host.Outcome State Fault Refusal :=
  runCommand [⟨len == Config.blockBytes, .invalidBlockSize⟩, ⟨s.keyv, .keyNotLoaded⟩]
    (fun s => s.putBlock (blockTransform Config.sbox s.k s.din)) s

end Sys2Proof.Machine
end

