-- ==== Sys2Proof/Machine/CfbEngine.lean ====
section
/-! DEFINITION. The CFB engine (41_cfb_mode.md): the chunk step, the commands LDIV, CFBINIT and CFBCHUNK (rules R140, R142,
R144), and the stream transform CFB as a function (rule R141), which the command sequence of rule R149 computes. -/

namespace Sys2Proof.Machine

/-- The output of a chunk of length `n`: byte `j` is `DIN[j] xor KS[j]` below `n` (R145) and zero from `n` on (R146). -/
def chunkOutput (n : Nat) (din ks : Block) : Block :=
  Vector.ofFn fun j : Fin 8 => if j.val < n then din[j] ^^^ ks[j] else 0#8

/-- The ciphertext of a chunk, R147's `src`: the output when encrypting, the input when decrypting. -/
def feedbackSource (mode : Direction) (din out : Block) : Block :=
  match mode with
  | .encrypt => out
  | .decrypt => din

/-- The next feedback value, `src[0..n-1] || zeros(8 - n)` (R147). The register is loaded whole. -/
def nextFeedback (n : Nat) (mode : Direction) (din out : Block) : Block :=
  Vector.ofFn fun j : Fin 8 => if j.val < n then (feedbackSource mode din out)[j] else 0#8

/-- CFBCHUNK's effect (R144): the keystream block is always the forward transform of FB (R143), and every read sees the state
at issue (R11). -/
def chunkStep (sbox : SBox) (n : Nat) (s : State) : State :=
  let out := chunkOutput n s.din (blockTransform sbox s.k s.fb)
  s.putChunk out (nextFeedback n s.mode s.din out) (decide (n < Config.chunkMax))

/-- LDIV (R140): IVREG takes IVBUF; a transform in progress ends. -/
def execLdiv (len : Nat) (s : State) : Host.Outcome State Fault Refusal :=
  runCommand [⟨len == Config.ivBytes, .invalidIVSize⟩] (fun s => s.loadIv s.ivbuf) s

/-- CFBINIT (R142): LEN is ignored; the key is checked before the IV (R176). -/
def execCfbinit (dir : Direction) (s : State) : Host.Outcome State Fault Refusal :=
  runCommand [⟨s.keyv, .keyNotLoaded⟩, ⟨s.ivv, .ivNotLoaded⟩] (fun s => s.startTransform dir) s

/-- CFBCHUNK (R144): a chunk of 1 to 8 bytes; KEYV is not checked, since ACTIVE implies it (R40). -/
def execCfbchunk (len : Nat) (s : State) : Host.Outcome State Fault Refusal :=
  runCommand [⟨decide (Config.chunkMin ≤ len ∧ len ≤ Config.chunkMax), .invalidBlockSize⟩, ⟨s.active, .cfbNotActive⟩]
    (chunkStep Config.sbox len) s

/-- One pass of R141 per chunk: `passes` chunks of at most 8 bytes from the feedback value `fb`. -/
def cfbPasses (sbox : SBox) (key : KeyFile) (dir : Direction) : Nat → Block → List Byte → List Byte
  | 0, _, _ => []
  | passes + 1, fb, bytes =>
    let chunk := bytes.take 8
    let out := List.zipWith (· ^^^ ·) chunk (blockTransform sbox key fb).toList
    let cipher := match dir with | .encrypt => out | .decrypt => chunk
    out ++ cfbPasses sbox key dir passes (padBlock cipher) (bytes.drop 8)

/-- The number of passes over a stream of `n` bytes, `ceil(n / 8)` (R141). -/
def cfbPassCount (n : Nat) : Nat := (n + 7) / 8

/-- The CFB transform of a byte stream, `CFB(K, IV, dir, M)` (R141). -/
def cfbTransform (sbox : SBox) (key : KeyFile) (iv : Block) (dir : Direction) (bytes : List Byte) : List Byte :=
  cfbPasses sbox key dir (cfbPassCount bytes.length) iv bytes

end Sys2Proof.Machine
end

