-- ==== Sys2Proof/Machine/Dispatch.lean ====
section
/-! DEFINITION. One arm per command (30_encoding.md rule R84). -/

namespace Sys2Proof.Machine

-- Each arm is one direct call of the command's meaning.
def exec (i : Instr) (s : State) : Host.Outcome State Fault Refusal :=
  match i with
  | .ldkey len => Sys2Proof.Machine.execLdkey len s
  | .eblk len => Sys2Proof.Machine.execEblk len s
  | .ldiv len => Sys2Proof.Machine.execLdiv len s
  | .cfbinit _ dir => Sys2Proof.Machine.execCfbinit dir s
  | .cfbchunk len => Sys2Proof.Machine.execCfbchunk len s

end Sys2Proof.Machine
end

