-- ==== Sys2Proof/Machine/Flags.lean ====
section
/-! DEFINITION. The bytes the host reads from the flag and result registers: STATUS (10_state.md rules R28 to R33) and ERR
(60_exceptions.md rule R173). No command computes an arithmetic flag (40_block_cipher.md rule R113). -/

namespace Sys2Proof.Machine

/-- The bit of a flag. -/
def flagBit (b : Bool) : BitVec 1 := if b then 1#1 else 0#1

/-- The MODE bit: 0 encrypt, 1 decrypt (R32). -/
def modeBit : Direction → BitVec 1
  | .encrypt => 0#1
  | .decrypt => 1#1

/-- The STATUS byte, `0000 || MODE || ACTIVE || IVV || KEYV` (R28, R33). -/
def statusByte (s : State) : Byte :=
  0#4 ++ (modeBit s.mode ++ (flagBit s.active ++ (flagBit s.ivv ++ flagBit s.keyv)))

/-- The ERR byte of a result code (R173). -/
def errByte : ErrCode → Byte
  | .ok => 0x00#8
  | .invalidKeySize => 0x01#8
  | .invalidIVSize => 0x02#8
  | .invalidBlockSize => 0x03#8
  | .illegalCommand => 0x04#8
  | .keyNotLoaded => 0x05#8
  | .ivNotLoaded => 0x06#8
  | .cfbNotActive => 0x07#8

end Sys2Proof.Machine
end

