-- ==== Sys2Proof/Machine/Window.lean ====
section
/-! DEFINITION. The host register window (20_memory.md rules R50 to R59): the register map, host reads and writes, BusError
(60_exceptions.md rules R171, R172), the issue of a command by a CMD write (30_encoding.md rule R80), and how the machine
serves one host event. -/

namespace Sys2Proof.Machine

/-- The registers of the window (R52). -/
inductive Reg
  /-- KEYBUF[j], write-only. -/
  | keybuf (j : Fin 32)
  /-- IVBUF[j], read and write. -/
  | ivbuf (j : Fin 8)
  /-- DIN[j], read and write. -/
  | din (j : Fin 8)
  /-- DOUT[j], read-only. -/
  | dout (j : Fin 8)
  /-- CMD, write-only, no storage: a write issues a command. -/
  | cmd
  /-- LEN, read and write. -/
  | len
  /-- STATUS, read-only. -/
  | status
  /-- ERR, read-only. -/
  | err
  /-- Offsets 0x3C to 0x3F: no register. -/
  | unmapped
deriving DecidableEq, Repr

/-- The register at an offset (R52): offsets are decoded directly (R64). -/
def regAt (off : Offset) : Reg :=
  let n := off.toNat
  if h : n < 0x20 then .keybuf ⟨n, h⟩
  else if h : n < 0x28 then .ivbuf ⟨n - 0x20, by omega⟩
  else if h : n < 0x30 then .din ⟨n - 0x28, by omega⟩
  else if h : n < 0x38 then .dout ⟨n - 0x30, by omega⟩
  else if n = 0x38 then .cmd
  else if n = 0x39 then .len
  else if n = 0x3A then .status
  else if n = 0x3B then .err
  else .unmapped

/-- The host physical address of an offset: the window stands at the platform's CORE_BASE (R50). No rule reads it. -/
def hostAddress (off : Offset) : Nat := Config.coreBase + off.toNat

/-- A host read (R54): the value of a readable byte, or BusError at a write-only or unmapped offset (R171). It has no
successor state, because a read changes none. -/
def hostRead (off : Offset) (s : State) : Except Fault Byte :=
  match regAt off with
  | .keybuf _ => .error (.busError off)
  | .ivbuf j => .ok s.ivbuf[j]
  | .din j => .ok s.din[j]
  | .dout j => .ok s.dout[j]
  | .cmd => .error (.busError off)
  | .len => .ok s.len
  | .status => .ok (statusByte s)
  | .err => .ok (errByte s.err)
  | .unmapped => .error (.busError off)

/-- The issue of a command by a write of `c` to CMD (R80): the word `LEN || c` is decoded first (R176), an illegal word fails
with IllegalCommand (R85, R180), a command runs. -/
def issueCommand (c : Byte) (s : State) : Host.Outcome State Fault Refusal :=
  match decode (commandWord s.len c) with
  | .command i => exec i s
  | .illegal _ => .next (s.setErr .illegalCommand)

/-- A host write (R53): a writable byte is set and nothing else changes, CMD issues a command, and a read-only or unmapped
offset raises BusError (R171). -/
def hostWrite (off : Offset) (v : Byte) (s : State) : Host.Outcome State Fault Refusal :=
  match regAt off with
  | .keybuf j => .next { s with keybuf := s.keybuf.set j.val v }
  | .ivbuf j => .next { s with ivbuf := s.ivbuf.set j.val v }
  | .din j => .next { s with din := s.din.set j.val v }
  | .dout _ => .fault (.busError off)
  | .cmd => issueCommand v s
  | .len => .next { s with len := v }
  | .status => .fault (.busError off)
  | .err => .fault (.busError off)
  | .unmapped => .fault (.busError off)

/-- The outcome of a host access (R10, R172): a successful read gives its byte to the host and changes no register. -/
def access (a : Access) (s : State) : Host.Outcome State Fault Refusal :=
  match a with
  | .read off =>
    match hostRead off s with
    | .ok v => .next (s.observe (.data v))
    | .error f => .fault f
  | .write off v => hostWrite off v s

/-- What the platform hands the host for the bus fault of access `a` (R172): the CORE's state is unchanged, and the host has
learned that this access raised BusError (log entry 2). A faulting read's is an observation of the program (R89), a faulting
write's is not. -/
def reportFault (a : Access) (s : State) : State := s.observe (.busError a)

/-- What a `rd` of the offset records (R89): the byte the read returns, or the BusError it raises. -/
def readRecord (off : Offset) (s : State) : Observation :=
  match hostRead off s with
  | .ok v => .data v
  | .error _ => .busError (.read off)

/-- One host event, from a state in which it is no longer pending: an access, whose bus fault is reported to the host, or the
platform's reset (R200). -/
def serve (e : HostEvent) (s : State) : Host.Outcome State Fault Refusal :=
  match e with
  | .reset => .next s.resetCore
  | .access a =>
    match access a s with
    | .next t => .next t
    | .fault _ => .next (reportFault a s)
    | .refused r => .refused r

/-- The next host event takes effect before any later one (R60); with none to come the CORE is idle and keeps all its state
(R190). -/
def serveNext (s : State) : Host.Outcome State Fault Refusal :=
  match s.pending with
  | [] => .next s
  | e :: rest => serve e (s.setPending rest)

/-- The state in which the host is about to issue the command word `w`: LEN holds CW[15:8] and the next access writes CW[7:0]
to CMD (R80). -/
def State.withCommand (s : State) (w : CommandWord) : State :=
  { s with len := cwLen w, pending := .access (.write 0x38#6 (cwByte w)) :: s.pending }

end Sys2Proof.Machine
end

