-- ==== Sys2Proof/Machine/Step.lean ====
section
/-! DEFINITION. One step of the machine: one host access, or reset, or idling (92_eei_decisions.md D1, 20_memory.md rule R60).
There is no program counter and no fetch (10_state.md rule R21): the next command is the next CMD write of the host. -/

namespace Sys2Proof.Machine

/-- One step: the next host event takes effect. -/
def step (s : State) : Host.Outcome State Fault Refusal := serveNext s

/-- `s` about to run the command word of `w`: the host has presented its LEN byte and its next access is the CMD write. -/
def State.withFetchWord (s : State) (nbits w : Nat) : State := s.withCommand (tableWord nbits w)

end Sys2Proof.Machine
end

