-- ==== Sys2Proof/Machine/HostProgram.lean ====
section
/-! DEFINITION. Host programs (30_encoding.md rules R89 to R91): statements, the exact expansion of the pseudo-instructions
into bus transactions, the written form of a transaction, and the host sequence that drives one CFB
stream (41_cfb_mode.md rule R149). Nothing here is state of the CORE: a program is the list of host events it expands to. -/

namespace Sys2Proof.Machine

/-- A statement of a host program: the base statements `wr` and `rd` (R89) and the pseudo-instructions (R90). A LEN that a
pseudo-instruction leaves out has its default in the text reader. -/
inductive Stmt
  /-- `wr OFF, V`. -/
  | wr (off : Offset) (v : Byte)
  /-- `rd OFF`. -/
  | rd (off : Offset)
  /-- `cmd C, N`. -/
  | cmd (c n : Byte)
  /-- `ldkey len=N`; `ldkey` is N = 32. -/
  | ldkey (n : Byte)
  /-- `eblk len=N`; `eblk` is N = 8. -/
  | eblk (n : Byte)
  /-- `ldiv len=N`; `ldiv` is N = 8. -/
  | ldiv (n : Byte)
  /-- `cfbinit.e` and `cfbinit.d`. -/
  | cfbinit (dir : Direction)
  /-- `cfbchunk N`. -/
  | cfbchunk (n : Byte)
  /-- `wrkey b0, ..., b31`. -/
  | wrkey (bytes : KeyBytes)
  /-- `wriv b0, ..., b7`. -/
  | wriv (bytes : Block)
  /-- `wrdin b0, ..., b(n-1)`. -/
  | wrdin (bytes : List Byte)
  /-- `rddout n`. -/
  | rddout (n : Nat)
  /-- `rdstat`. -/
  | rdstat
deriving DecidableEq, Repr

/-- A `wrdin` or `rddout` names at most the 8 bytes of its buffer (R24, R25). -/
def Stmt.WellFormed : Stmt → Bool
  | .wrdin bytes => bytes.length ≤ 8
  | .rddout n => n ≤ 8
  | _ => true

/-- The byte writes of `bytes` at the offsets from `off` on, in increasing offset order; also what a platform makes of a wider
write (R51). DESIGN CHOICE (log entry 15): the spec does not say what becomes of bytes beyond offset 0x3F; here an offset keeps
its low 6 bits, so they go on at offset 0x00. No statement of R89 or R90 that is well-formed reaches that case. -/
def writeBytes : Nat → List Byte → List Access
  | _, [] => []
  | off, v :: rest => .write (BitVec.ofNat 6 off) v :: writeBytes (off + 1) rest

/-- The byte reads at `n` offsets from `off` on, in increasing offset order; also what a platform makes of a wider read (R51).
DESIGN CHOICE (log entry 15): beyond offset 0x3F, of which the spec says nothing, an offset keeps its low 6 bits. -/
def readBytes : Nat → Nat → List Access
  | _, 0 => []
  | off, n + 1 => .read (BitVec.ofNat 6 off) :: readBytes (off + 1) n

/-- `cmd C, N`: LEN is written, then CMD (R90). -/
def commandAccesses (c n : Byte) : List Access := [.write 0x39#6 n, .write 0x38#6 c]

/-- The CMD byte of `cfbinit.e` and `cfbinit.d` (R90). -/
def cfbinitByte : Direction → Byte
  | .encrypt => 0x04#8
  | .decrypt => 0x14#8

/-- The expansion of a statement into bus transactions, in order (R89, R90). -/
def Stmt.expand : Stmt → List Access
  | .wr off v => [.write off v]
  | .rd off => [.read off]
  | .cmd c n => commandAccesses c n
  | .ldkey n => commandAccesses 0x01#8 n
  | .eblk n => commandAccesses 0x02#8 n
  | .ldiv n => commandAccesses 0x03#8 n
  | .cfbinit dir => [.write 0x38#6 (cfbinitByte dir)]
  | .cfbchunk n => commandAccesses 0x05#8 n
  | .wrkey bytes => writeBytes 0x00 bytes.toList
  | .wriv bytes => writeBytes 0x20 bytes.toList
  | .wrdin bytes => writeBytes 0x28 bytes
  | .rddout n => readBytes 0x30 n
  | .rdstat => [.read 0x3A#6, .read 0x3B#6]

/-- A program's encoding: its bus transactions after expansion (R91). -/
def expandProgram (p : List Stmt) : List Access := p.flatMap Stmt.expand

/-- The host events of a program. -/
def programEvents (p : List Stmt) : List HostEvent := (expandProgram p).map .access

/-- The host's chunks of a stream, 8 bytes each but the last (R141, R212): `passes` of them. -/
def streamChunks : Nat → List Byte → List (List Byte)
  | 0, _ => []
  | passes + 1, bytes => bytes.take 8 :: streamChunks passes (bytes.drop 8)

/-- What the host does with one chunk (R149): write it to DIN, process it, read its output. -/
def chunkProgram (chunk : List Byte) : List Stmt :=
  [.wrdin chunk, .cfbchunk (BitVec.ofNat 8 chunk.length), .rddout chunk.length]

/-- The host's program for one CFB stream (R149): CFBINIT, then each chunk in order. -/
def streamProgram (dir : Direction) (bytes : List Byte) : List Stmt :=
  .cfbinit dir :: (streamChunks (cfbPassCount bytes.length) bytes).flatMap chunkProgram

/-- A lower-case hexadecimal digit (R12). -/
def hexDigit (n : Nat) : Char := if n < 10 then Char.ofNat (0x30 + n) else Char.ofNat (0x57 + n)

/-- A byte as two hexadecimal digits (R12). -/
def hexByte (n : Nat) : List Char := [hexDigit (n / 16 % 16), hexDigit (n % 16)]

/-- The written form of one bus transaction, `W off data` or `R off`; a CMD write carries the command word it issues, `len`
being the value of LEN then (R91). -/
def renderAccess (len : Byte) : Access → List Char
  | .read off => ['R', ' '] ++ hexByte off.toNat
  | .write off v =>
    ['W', ' '] ++ hexByte off.toNat ++ [' '] ++ hexByte v.toNat ++
      (if regAt off = .cmd then [' ', '[', 'C', 'W', '='] ++ hexByte len.toNat ++ hexByte v.toNat ++ [']'] else [])

/-- The value of LEN after a transaction: only a write of LEN changes it (R27). -/
def lenAfter (len : Byte) : Access → Byte
  | .read _ => len
  | .write off v => if regAt off = .len then v else len

/-- The written form of a program, one transaction an entry, from the value of LEN at its start (R91). -/
def renderProgram : Byte → List Access → List (List Char)
  | _, [] => []
  | len, a :: rest => renderAccess len a :: renderProgram (lenAfter len a) rest

end Sys2Proof.Machine
end

