-- ==== Sys2Proof/Machine/Assembler.lean ====
section
/-! DEFINITION. The reader of program text (30_encoding.md rules R89, R90): one statement per line, numbers in decimal or in
hexadecimal with `0x`, register names with an optional byte index, `;` before a comment. What is no statement is refused
(`none`): an unknown word, a wrong number of operands, a value or an index out of range. -/

namespace Sys2Proof.Machine

/-- The value of a digit, upper or lower case, below `base`. -/
def digitValue (base : Nat) (c : Char) : Option Nat :=
  let n := c.toNat
  let v := if 0x30 ≤ n ∧ n ≤ 0x39 then n - 0x30
    else if 0x61 ≤ n ∧ n ≤ 0x66 then n - 0x57
    else if 0x41 ≤ n ∧ n ≤ 0x46 then n - 0x37
    else 16
  if v < base then some v else none

/-- The number of a digit sequence, from the digits read so far. -/
def digitsValue (base : Nat) : Nat → List Char → Option Nat
  | acc, [] => some acc
  | acc, c :: rest =>
    match digitValue base c with
    | some d => digitsValue base (acc * base + d) rest
    | none => none

/-- A number of program text: decimal, or hexadecimal with `0x` (R89). -/
def readNumber : List Char → Option Nat
  | [] => none
  | ['0', 'x'] => none
  | '0' :: 'x' :: rest => digitsValue 16 0 rest
  | digits => digitsValue 10 0 digits

/-- A byte operand: a number below 256. -/
def readByte (text : List Char) : Option Byte :=
  match readNumber text with
  | some n => if n < 256 then some (BitVec.ofNat 8 n) else none
  | none => none

/-- The base offset and the number of bytes of a register name (R52). -/
def registerNamed (name : List Char) : Option (Nat × Nat) :=
  if name = "KEYBUF".toList then some (0x00, 32)
  else if name = "IVBUF".toList then some (0x20, 8)
  else if name = "DIN".toList then some (0x28, 8)
  else if name = "DOUT".toList then some (0x30, 8)
  else if name = "CMD".toList then some (0x38, 1)
  else if name = "LEN".toList then some (0x39, 1)
  else if name = "STATUS".toList then some (0x3A, 1)
  else if name = "ERR".toList then some (0x3B, 1)
  else none

/-- The text without the spaces (and tabs and carriage returns) at its start. -/
def dropSpaces (text : List Char) : List Char := text.dropWhile fun c => c.toNat ≤ 0x20

/-- The text without the spaces at its two ends. -/
def trimSpaces (text : List Char) : List Char := (dropSpaces (dropSpaces text).reverse).reverse

/-- The pieces of the text between the separators; a text without one is its own only piece. -/
def splitOn (sep : Char) : List Char → List (List Char)
  | [] => [[]]
  | c :: rest =>
    if c = sep then [] :: splitOn sep rest
    else match splitOn sep rest with
      | piece :: pieces => (c :: piece) :: pieces
      | [] => [[c]]

/-- An offset operand: a number, or a register name with an optional `+j` inside the register (R89). -/
def readOffset (text : List Char) : Option Offset :=
  match readNumber text with
  | some n => if n < 64 then some (BitVec.ofNat 6 n) else none
  | none =>
    match splitOn '+' text with
    | [name] => (registerNamed (trimSpaces name)).map fun r => BitVec.ofNat 6 r.1
    | [name, index] =>
      match registerNamed (trimSpaces name), readNumber (trimSpaces index) with
      | some (base, count), some j => if j < count then some (BitVec.ofNat 6 (base + j)) else none
      | _, _ => none
    | _ => none

/-- All the values, when every one is present. -/
def allSome {α : Type} : List (Option α) → Option (List α)
  | [] => some []
  | none :: _ => none
  | some a :: rest => (allSome rest).map (a :: ·)

/-- The byte of a `len=N` operand; with no operand, the default. -/
def readLength (default : Byte) : List (List Char) → Option Byte
  | [] => some default
  | [operand] =>
    match splitOn '=' operand with
    | [key, n] => if trimSpaces key = "len".toList then readByte (trimSpaces n) else none
    | _ => none
  | _ => none

/-- The statement of a mnemonic and its operands (R89, R90). -/
def readStatement (word : List Char) (operands : List (List Char)) : Option Stmt :=
  let bytes := allSome (operands.map readByte)
  if word = "wr".toList then
    match operands with
    | [off, v] => match readOffset off, readByte v with
      | some off, some v => some (.wr off v)
      | _, _ => none
    | _ => none
  else if word = "rd".toList then
    match operands with
    | [off] => (readOffset off).map .rd
    | _ => none
  else if word = "cmd".toList then
    match bytes with
    | some [c, n] => some (.cmd c n)
    | _ => none
  else if word = "ldkey".toList then (readLength 32#8 operands).map .ldkey
  else if word = "eblk".toList then (readLength 8#8 operands).map .eblk
  else if word = "ldiv".toList then (readLength 8#8 operands).map .ldiv
  else if word = "cfbinit.e".toList then
    if operands = [] then some (.cfbinit .encrypt) else none
  else if word = "cfbinit.d".toList then
    if operands = [] then some (.cfbinit .decrypt) else none
  else if word = "cfbchunk".toList then
    match bytes with
    | some [n] => some (.cfbchunk n)
    | _ => none
  else if word = "wrkey".toList then
    match bytes with
    | some bs => if h : bs.length = 32 then some (.wrkey ⟨bs.toArray, h⟩) else none
    | none => none
  else if word = "wriv".toList then
    match bytes with
    | some bs => if h : bs.length = 8 then some (.wriv ⟨bs.toArray, h⟩) else none
    | none => none
  else if word = "wrdin".toList then
    match bytes with
    | some bs => if 1 ≤ bs.length ∧ bs.length ≤ 8 then some (.wrdin bs) else none
    | none => none
  else if word = "rddout".toList then
    match operands.map readNumber with
    | [some n] => if n ≤ 8 then some (.rddout n) else none
    | _ => none
  else if word = "rdstat".toList then
    if operands = [] then some .rdstat else none
  else none

/-- The statements of one line, none for an empty line; `;` starts a comment (R89). -/
def readLine (line : List Char) : Option (List Stmt) :=
  let code := trimSpaces (line.takeWhile (· ≠ ';'))
  if code = [] then some []
  else
    let word := code.takeWhile fun c => 0x20 < c.toNat
    let rest := trimSpaces (code.drop word.length)
    let operands := if rest = [] then [] else (splitOn ',' rest).map trimSpaces
    (readStatement word operands).map ([·])

/-- The program of a text, one statement per line (R89); `none` when a line is no statement. -/
def readProgram (text : List Char) : Option (List Stmt) :=
  (allSome ((splitOn '\n' text).map readLine)).map List.flatten

end Sys2Proof.Machine
end

