-- ==== Sys2Proof/Safety.lean ====
section
/-! DEFINITION. What counts as a safe run, in the terms the statements use: the invariants of the register tuple
(10_state.md rules R40, R35 to R37), and when two states look alike to the host. -/

namespace Sys2Proof.Machine

/-- `ACTIVE = 1` implies `KEYV = 1` and `IVV = 1` (R40). -/
def ActiveLoaded (s : State) : Prop := s.active = true → s.keyv = true ∧ s.ivv = true

/-- What no command has loaded still holds its reset value: K and DOUT until a key is loaded (R35, R25), IVREG until an IV is
loaded (R36), FB and MODE until both are, since only CFBINIT and CFBCHUNK write them (R37, R32). -/
def UnloadedIsReset (s : State) : Prop :=
  (s.keyv = false → s.k = zeroKeyFile ∧ s.dout = zeroBlock) ∧
  (s.ivv = false → s.ivreg = zeroBlock) ∧
  ((s.keyv = false ∨ s.ivv = false) → s.fb = zeroBlock ∧ s.mode = .encrypt)

/-- The invariant of the machine. -/
def StateInv (s : State) : Prop := ActiveLoaded s ∧ UnloadedIsReset s

/-- Two states the host cannot tell apart: they agree on all but the hidden registers, and on a hidden register wherever its
valid bit lets a command read it, K under KEYV, IVREG under IVV, FB under ACTIVE (R35 to R37, D26). -/
def SameToHost (s t : State) : Prop :=
  s.keybuf = t.keybuf ∧ s.ivbuf = t.ivbuf ∧ s.din = t.din ∧ s.dout = t.dout ∧ s.len = t.len ∧ s.err = t.err ∧
  s.keyv = t.keyv ∧ s.ivv = t.ivv ∧ s.active = t.active ∧ s.mode = t.mode ∧
  s.pending = t.pending ∧ s.observed = t.observed ∧
  (s.keyv = true → s.k = t.k) ∧ (s.ivv = true → s.ivreg = t.ivreg) ∧ (s.active = true → s.fb = t.fb)

/-- `n` steps from `s` reach `t`, with no fault and no refusal on the way. -/
def Reaches (n : Nat) (s t : State) : Prop := Sys2Proof.core.run n s = .next t

end Sys2Proof.Machine
end

