-- ==== Sys2Proof/WellFormed.lean ====
section
/-! DEFINITION. What a command must satisfy to have a command word (the LEN field is 8 bits, 30_encoding.md rule R81), and
the LEN values each command accepts (the "LEN legal set" column of rule R84). A LEN outside its legal set is still a
command: it completes with an error code (60_exceptions.md rule R176). -/

namespace Sys2Proof

/-- The byte count the command presents (R81). -/
def Instr.len : Instr → Nat
  | .ldkey len => len
  | .eblk len => len
  | .ldiv len => len
  | .cfbinit len _ => len
  | .cfbchunk len => len

/-- The LEN operand fits the 8-bit field CW[15:8] (R81, R83). -/
abbrev Instr.WellFormed (i : Instr) : Prop := i.len < 2 ^ 8

/-- The LEN legal set of R84: exactly 32, 8 and 8 for LDKEY, EBLK and LDIV, any value for CFBINIT, 1 to 8 for CFBCHUNK. -/
def Instr.LegalLength : Instr → Bool
  | .ldkey len => len = Config.keyBytes
  | .eblk len => len = Config.blockBytes
  | .ldiv len => len = Config.ivBytes
  | .cfbinit _ _ => true
  | .cfbchunk len => Config.chunkMin ≤ len && len ≤ Config.chunkMax

end Sys2Proof
end

