-- ==== Sys2Proof/Certificates/Slice0/Obligations.lean ====
section
/-! DEFINITION. The statements for the provers. Each docstring names the rule of spec/ it formalises; where a clause rests on a
choice of the model, it names the entry of notes/assumptions. -/

open Sys2Proof Sys2Proof.Machine

/-! ### Encoding -/

/-- 30_encoding.md rules R81, R84: the decoder reads back every well-formed command, its length and its
direction (that CFBINIT carries the length it ignores is the model's choice: log entry 3). -/
def Obligations.DecodeOfEncode : Prop := ∀ i : Instr, i.WellFormed → decode (encode i) = .command i

/-- 30_encoding.md rules R86, R88: a word that decodes to a command is that command's word, LEN included (log entry 3). -/
def Obligations.EncodeOfDecode : Prop :=
  ∀ (w : CommandWord) (i : Instr), decode w = .command i → i.WellFormed ∧ encode i = w

/-- 30_encoding.md rule R84: words written out from the table, one or two for each command, and three illegal ones (that CFBINIT
carries the length it ignores is the model's choice: log entry 3). -/
def Obligations.SampleWordsDecode : Prop :=
  decode 0b0010000000000001#16 = .command (.ldkey 32) ∧
  decode 0b0000100000000010#16 = .command (.eblk 8) ∧
  decode 0b0000100000000011#16 = .command (.ldiv 8) ∧
  decode 0b0000100000000100#16 = .command (.cfbinit 8 .encrypt) ∧
  decode 0b0000100000010100#16 = .command (.cfbinit 8 .decrypt) ∧
  decode 0b0000001000000101#16 = .command (.cfbchunk 2) ∧
  decode 0b0001111100010101#16 = .illegal .dirNotAllowed ∧
  decode 0b0000100010000010#16 = .illegal .reservedBits ∧
  decode 0b0000100000000110#16 = .illegal .unknownOp

/-- 30_encoding.md rule R84, mask and match columns: a word is a command's exactly when it matches the command's row, and LEN
is CW[15:8] (for CFBINIT too: log entry 3). -/
def Obligations.DecodeFollowsMasks : Prop :=
  ∀ w : CommandWord,
    (w &&& 0x00FF#16 = 0x0001#16 ↔ decode w = .command (.ldkey (w >>> 8).toNat)) ∧
    (w &&& 0x00FF#16 = 0x0002#16 ↔ decode w = .command (.eblk (w >>> 8).toNat)) ∧
    (w &&& 0x00FF#16 = 0x0003#16 ↔ decode w = .command (.ldiv (w >>> 8).toNat)) ∧
    (w &&& 0x00EF#16 = 0x0004#16 ↔
      decode w = .command (.cfbinit (w >>> 8).toNat (if w.getLsbD 4 then .decrypt else .encrypt))) ∧
    (w &&& 0x00FF#16 = 0x0005#16 ↔ decode w = .command (.cfbchunk (w >>> 8).toNat))

/-- 30_encoding.md rule R85: which words are illegal, that exactly six values of CW[7:0] are legal for every LEN and 250 are
not, and that issuing an illegal one fails with IllegalCommand. -/
def Obligations.IllegalWords : Prop :=
  (∀ w : CommandWord, (∃ why, decode w = .illegal why) ↔
    (w.extractLsb' 5 3 ≠ 0#3 ∨ w.extractLsb' 0 4 = 0x0#4 ∨ 0x6#4 ≤ w.extractLsb' 0 4 ∨
      (w.getLsbD 4 = true ∧ w.extractLsb' 0 4 ≠ 0x4#4))) ∧
  (∀ c len : Byte, (∃ i, decode (commandWord len c) = .command i) ↔
    c ∈ [0x01#8, 0x02#8, 0x03#8, 0x04#8, 0x14#8, 0x05#8]) ∧
  ((List.range 256).filter fun n =>
    BitVec.ofNat 8 n ∉ [0x01#8, 0x02#8, 0x03#8, 0x04#8, 0x14#8, 0x05#8]).length = 250 ∧
  (∀ (c : Byte) (s : State), c ∉ [0x01#8, 0x02#8, 0x03#8, 0x04#8, 0x14#8, 0x05#8] →
    issueCommand c s = .next { s with err := .illegalCommand })

/-! ### The block unit's functions -/

/-- 00_scope.md rule R9: `be32` and `bytes_be32` are inverse, `b0` at bits 31:24 and `b3` at bits 7:0. -/
def Obligations.BigEndianPacking : Prop :=
  (∀ b0 b1 b2 b3 : Byte, (be32 b0 b1 b2 b3).toNat =
    b0.toNat * 2 ^ 24 + b1.toNat * 2 ^ 16 + b2.toNat * 2 ^ 8 + b3.toNat) ∧
  (∀ b0 b1 b2 b3 : Byte, byteBe32 (be32 b0 b1 b2 b3) 0 = b0 ∧ byteBe32 (be32 b0 b1 b2 b3) 1 = b1 ∧
    byteBe32 (be32 b0 b1 b2 b3) 2 = b2 ∧ byteBe32 (be32 b0 b1 b2 b3) 3 = b3) ∧
  (∀ w : Word, be32 (byteBe32 w 0) (byteBe32 w 1) (byteBe32 w 2) (byteBe32 w 3) = w)

/-- 40_block_cipher.md rule R101: word `i` of the key is bytes 4i to 4i+3, the lowest-indexed byte most significant. -/
def Obligations.KeyWordsAreBigEndian : Prop :=
  ∀ (kb : KeyBytes) (i : Nat) (h : i < 8), (keyWords kb)[i].toNat =
    kb[4 * i].toNat * 2 ^ 24 + kb[4 * i + 1].toNat * 2 ^ 16 + kb[4 * i + 2].toNat * 2 ^ 8 + kb[4 * i + 3].toNat

/-- 40_block_cipher.md rule R104: the index formula, and the full sequence over the 32 rounds. -/
def Obligations.KeySchedule : Prop :=
  (∀ i : Fin 32, (i.val < 24 → (subkeyIndex i).val = i.val % 8) ∧ (24 ≤ i.val → (subkeyIndex i).val = 7 - i.val % 8)) ∧
  (List.ofFn fun i : Fin 32 => (subkeyIndex i).val) =
    [0, 1, 2, 3, 4, 5, 6, 7, 0, 1, 2, 3, 4, 5, 6, 7, 0, 1, 2, 3, 4, 5, 6, 7, 7, 6, 5, 4, 3, 2, 1, 0]

/-- 40_block_cipher.md rule R105, for every S-box: nibble position `p` of the result is `SBOX[p]` of nibble position `p`. -/
def Obligations.SubstitutionByNibbles : Prop :=
  ∀ (sbox : SBox) (m : Word) (p : Fin 8), nibble (subst sbox m) p = sbox p (nibble m p)

/-- 40_block_cipher.md rule R106: the two slices, and where each bit goes. -/
def Obligations.RotationByEleven : Prop :=
  ∀ s : Word, rotl32 s 11 = s.extractLsb' 0 21 ++ s.extractLsb' 21 11 ∧
    ∀ j : Nat, j < 32 → (rotl32 s 11).getLsbD ((j + 11) % 32) = s.getLsbD j

/-- 40_block_cipher.md rule R108: one round, both halves from the old pair, the subkey the schedule's (R104). -/
def Obligations.FeistelRoundSwaps : Prop :=
  ∀ (sbox : SBox) (key : KeyFile) (x : Block) (i : Nat) (h : i + 1 ≤ 32),
    (halvesAfter sbox key x (i + 1) h).left = (halvesAfter sbox key x i (by omega)).right ∧
    (halvesAfter sbox key x (i + 1) h).right =
      rotl32 (subst sbox (add32 (halvesAfter sbox key x i (by omega)).right key[subkeyIndex ⟨i, h⟩])) 11 ^^^
        (halvesAfter sbox key x i (by omega)).left

/-- 40_block_cipher.md rule R109: output bytes 0 to 3 are the final right half, 4 to 7 the final left half. -/
def Obligations.FinalSwap : Prop :=
  ∀ (sbox : SBox) (key : KeyFile) (x : Block),
    let y := blockTransform sbox key x
    let h := halvesAfter sbox key x 32 (by omega)
    be32 y[0] y[1] y[2] y[3] = h.right ∧ be32 y[4] y[5] y[6] y[7] = h.left

/-- 40_block_cipher.md rule R110: E is the Feistel rounds over the key words three times forward and once in reverse, from the
big-endian halves of the block, and then the halves swapped. -/
def Obligations.TransformRunsTheSchedule : Prop :=
  ∀ (sbox : SBox) (key : KeyFile) (x : Block),
    let forward := [key[0], key[1], key[2], key[3], key[4], key[5], key[6], key[7]]
    let start : Halves := ⟨be32 x[0] x[1] x[2] x[3], be32 x[4] x[5] x[6] x[7]⟩
    let last := (forward ++ forward ++ forward ++ forward.reverse).foldl
      (fun h k => (⟨h.right, rotl32 (subst sbox (add32 h.right k)) 11 ^^^ h.left⟩ : Halves)) start
    blockTransform sbox key x = bytesOfWords last.right last.left

/-- 93_implementation_defined.md entry G5, here a theorem about the model and no assumption on SBOX: distinct blocks have
distinct transforms, whatever the S-box. -/
def Obligations.TransformIsInjective : Prop :=
  ∀ (sbox : SBox) (key : KeyFile) (x y : Block), blockTransform sbox key x = blockTransform sbox key y → x = y

/-! ### The five commands -/

/-- 40_block_cipher.md rule R100: the command word, the key words it loads, all it changes, and its one error. -/
def Obligations.LdkeyResult : Prop :=
  (∀ len : Byte, decode (commandWord len 0x01#8) = .command (.ldkey len.toNat)) ∧
  (∀ s : State, ∃ t, exec (.ldkey 32) s = .next t ∧
    (∀ (i : Nat) (h : i < 8),
      t.k[i] = be32 s.keybuf[4 * i] s.keybuf[4 * i + 1] s.keybuf[4 * i + 2] s.keybuf[4 * i + 3]) ∧
    t = { s with k := t.k, keyv := true, active := false, err := .ok }) ∧
  (∀ (n : Nat) (s : State), n ≠ 32 → exec (.ldkey n) s = .next { s with err := .invalidKeySize })

/-- 40_block_cipher.md rule R111: the command word, DOUT as the transform of DIN, all it changes, its two errors in their
order, and the rule's example under both S-box test configurations. -/
def Obligations.EblkResult : Prop :=
  (∀ len : Byte, decode (commandWord len 0x02#8) = .command (.eblk len.toNat)) ∧
  (∀ s : State, s.keyv = true →
    exec (.eblk 8) s = .next { s with dout := blockTransform Config.sbox s.k s.din, err := .ok }) ∧
  (∀ (n : Nat) (s : State), n ≠ 8 → exec (.eblk n) s = .next { s with err := .invalidBlockSize }) ∧
  (∀ s : State, s.keyv = false → exec (.eblk 8) s = .next { s with err := .keyNotLoaded }) ∧
  (let key := keyWords (Vector.replicate 32 0xAA#8)
   let zero : Block := Vector.replicate 8 0x00#8
   blockTransform Config.sboxId key zero = #v[0x27#8, 0xdc#8, 0x12#8, 0x89#8, 0x4f#8, 0x67#8, 0x64#8, 0xcf#8] ∧
   blockTransform Config.sboxMagma key zero = #v[0x8a#8, 0xc8#8, 0x55#8, 0x31#8, 0x34#8, 0x4c#8, 0x00#8, 0xfd#8])

/-- 41_cfb_mode.md rule R140: the command word, the IV it loads, all it changes, and its one error. -/
def Obligations.LdivResult : Prop :=
  (∀ len : Byte, decode (commandWord len 0x03#8) = .command (.ldiv len.toNat)) ∧
  (∀ s : State, exec (.ldiv 8) s = .next { s with ivreg := s.ivbuf, ivv := true, active := false, err := .ok }) ∧
  (∀ (n : Nat) (s : State), n ≠ 8 → exec (.ldiv n) s = .next { s with err := .invalidIVSize })

/-- 41_cfb_mode.md rule R142: the two command words, what a start writes for every LEN, and its two errors in their order. (That
the decoded CFBINIT carries LEN, where R88 gives it its direction alone, is the model's choice: log entry 3.) -/
def Obligations.CfbinitResult : Prop :=
  (∀ len : Byte, decode (commandWord len 0x04#8) = .command (.cfbinit len.toNat .encrypt) ∧
    decode (commandWord len 0x14#8) = .command (.cfbinit len.toNat .decrypt)) ∧
  (∀ (n : Nat) (dir : Direction) (s : State), s.keyv = true → s.ivv = true →
    exec (.cfbinit n dir) s = .next { s with fb := s.ivreg, mode := dir, active := true, err := .ok }) ∧
  (∀ (n : Nat) (dir : Direction) (s : State), s.keyv = false →
    exec (.cfbinit n dir) s = .next { s with err := .keyNotLoaded }) ∧
  (∀ (n : Nat) (dir : Direction) (s : State), s.keyv = true → s.ivv = false →
    exec (.cfbinit n dir) s = .next { s with err := .ivNotLoaded })

/-- 41_cfb_mode.md rule R144: the command word, output and feedback byte by byte (R145, R147), the end of the transform after
a partial chunk, all it changes, its two errors in their order, and the keystream block of the rule's example. -/
def Obligations.CfbchunkResult : Prop :=
  (∀ len : Byte, decode (commandWord len 0x05#8) = .command (.cfbchunk len.toNat)) ∧
  (∀ (n : Nat) (s : State), 1 ≤ n → n ≤ 8 → s.active = true → ∃ t, exec (.cfbchunk n) s = .next t ∧
    (∀ (j : Nat) (h : j < 8), t.dout[j] =
      if j < n then s.din[j] ^^^ (blockTransform Config.sbox s.k s.fb)[j] else 0x00#8) ∧
    (∀ (j : Nat) (h : j < 8), t.fb[j] =
      if j < n then (if s.mode = .encrypt then s.din[j] ^^^ (blockTransform Config.sbox s.k s.fb)[j] else s.din[j])
      else 0x00#8) ∧
    t.active = decide (n = 8) ∧
    t = { s with dout := t.dout, fb := t.fb, active := t.active, err := .ok }) ∧
  (∀ (n : Nat) (s : State), n = 0 ∨ 8 < n → exec (.cfbchunk n) s = .next { s with err := .invalidBlockSize }) ∧
  (∀ (n : Nat) (s : State), 1 ≤ n → n ≤ 8 → s.active = false →
    exec (.cfbchunk n) s = .next { s with err := .cfbNotActive }) ∧
  blockTransform Config.sboxMagma (keyWords (Vector.replicate 32 0xAA#8)) (Vector.replicate 8 0xBB#8) =
    #v[0xe2#8, 0x89#8, 0x4b#8, 0x29#8, 0x73#8, 0xb5#8, 0x96#8, 0x56#8]

/-- 60_exceptions.md rule R176: every command completes, and the first failing check, in the order decode, length, state,
decides ERR. -/
def Obligations.CheckOrder : Prop :=
  ∀ (c : Byte) (s : State), ∃ t, issueCommand c s = .next t ∧ t.err =
    if c = 0x01#8 then (if s.len ≠ 32#8 then .invalidKeySize else .ok)
    else if c = 0x02#8 then
      (if s.len ≠ 8#8 then .invalidBlockSize else if s.keyv = false then .keyNotLoaded else .ok)
    else if c = 0x03#8 then (if s.len ≠ 8#8 then .invalidIVSize else .ok)
    else if c = 0x04#8 ∨ c = 0x14#8 then
      (if s.keyv = false then .keyNotLoaded else if s.ivv = false then .ivNotLoaded else .ok)
    else if c = 0x05#8 then
      (if s.len = 0#8 ∨ 8#8 < s.len then .invalidBlockSize else if s.active = false then .cfbNotActive else .ok)
    else .illegalCommand

/-- 10_state.md rule R42 and 60_exceptions.md rule R174: a command that fails writes ERR and nothing else. -/
def Obligations.FailureWritesOnlyErr : Prop :=
  ∀ (c : Byte) (s t : State), issueCommand c s = .next t → t.err ≠ .ok → t = { s with err := t.err }

/-- 10_state.md rule R43: the write matrix. Every register not listed for a command keeps its value. -/
def Obligations.WriteMatrix : Prop :=
  (∀ (n : Nat) (s t : State), exec (.ldkey n) s = .next t → t.err = .ok →
    t = { s with k := t.k, keyv := true, active := false, err := .ok }) ∧
  (∀ (n : Nat) (s t : State), exec (.eblk n) s = .next t → t.err = .ok → t = { s with dout := t.dout, err := .ok }) ∧
  (∀ (n : Nat) (s t : State), exec (.ldiv n) s = .next t → t.err = .ok →
    t = { s with ivreg := t.ivreg, ivv := true, active := false, err := .ok }) ∧
  (∀ (n : Nat) (dir : Direction) (s t : State), exec (.cfbinit n dir) s = .next t → t.err = .ok →
    t = { s with fb := t.fb, mode := t.mode, active := true, err := .ok }) ∧
  (∀ (n : Nat) (s t : State), exec (.cfbchunk n) s = .next t → t.err = .ok →
    t = { s with dout := t.dout, fb := t.fb, active := if n < 8 then false else s.active, err := .ok }) ∧
  (∀ (i : Instr) (s t : State), exec i s = .next t → t.err ≠ .ok → t = { s with err := t.err })

/-- 10_state.md rules R22 to R24 and R27: no command writes KEYBUF, IVBUF, DIN or LEN, so every byte of the window outside
DOUT, STATUS and ERR reads as before; and DOUT reads as before but for EBLK and CFBCHUNK (R25). -/
def Obligations.CommandWindowFrame : Prop :=
  ∀ (c : Byte) (s t : State), issueCommand c s = .next t →
    t.keybuf = s.keybuf ∧
    (∀ off : Offset, off.toNat < 0x30 ∨ 0x3C ≤ off.toNat ∨ off = 0x38#6 ∨ off = 0x39#6 → hostRead off t = hostRead off s) ∧
    (c ≠ 0x02#8 → c ≠ 0x05#8 → ∀ off : Offset, 0x30 ≤ off.toNat → off.toNat < 0x38 → hostRead off t = hostRead off s)

/-- 41_cfb_mode.md rule R142: "Any LEN value is accepted", and it changes nothing. -/
def Obligations.CfbinitIgnoresLen : Prop :=
  ∀ (n m : Nat) (dir : Direction) (s : State), exec (.cfbinit n dir) s = exec (.cfbinit m dir) s

/-- 41_cfb_mode.md rules R143, R145: DOUT after a chunk is the same in both directions. -/
def Obligations.ChunkOutputIgnoresMode : Prop :=
  ∀ (n : Nat) (s : State), 1 ≤ n → n ≤ 8 → s.active = true →
    ∃ t u, exec (.cfbchunk n) { s with mode := .encrypt } = .next t ∧
      exec (.cfbchunk n) { s with mode := .decrypt } = .next u ∧ t.dout = u.dout

/-- 41_cfb_mode.md rule R144: DIN[n..7] are not read; two states that differ only there give the same chunk. -/
def Obligations.ChunkIgnoresUnusedInput : Prop :=
  ∀ (n : Nat) (s : State) (other : Block), 1 ≤ n → n ≤ 8 → s.active = true →
    (∀ (j : Nat) (h : j < 8), j < n → other[j] = s.din[j]) →
    ∃ t, exec (.cfbchunk n) s = .next t ∧ exec (.cfbchunk n) { s with din := other } = .next { t with din := other }

/-- 41_cfb_mode.md rule R146: DOUT[n..7] are zero after a chunk, and after an encrypting chunk DOUT is the new FB. -/
def Obligations.OutputPadding : Prop :=
  ∀ (n : Nat) (s : State), 1 ≤ n → n ≤ 8 → s.active = true → ∃ t, exec (.cfbchunk n) s = .next t ∧
    (∀ (j : Nat) (h : j < 8), n ≤ j → t.dout[j] = 0x00#8) ∧ (s.mode = .encrypt → t.dout = t.fb)

/-- 41_cfb_mode.md rule R148: after a partial chunk every CFBCHUNK with a legal LEN fails, and it fails again as long as ACTIVE
stays 0. -/
def Obligations.PartialChunkEndsTransform : Prop :=
  ∀ (n : Nat) (s : State), 1 ≤ n → n < 8 → s.active = true → ∃ t, exec (.cfbchunk n) s = .next t ∧ t.active = false ∧
    ∀ (m : Nat) (u : State), 1 ≤ m → m ≤ 8 → u.active = t.active →
      exec (.cfbchunk m) u = .next { u with err := .cfbNotActive }

/-! ### The CFB transform -/

/-- 41_cfb_mode.md rule R150, for every S-box: decryption after encryption gives the stream back. -/
def Obligations.CfbRoundTrip : Prop :=
  ∀ (sbox : SBox) (key : KeyFile) (iv : Block) (bytes : List Byte),
    cfbTransform sbox key iv .decrypt (cfbTransform sbox key iv .encrypt bytes) = bytes

/-- 41_cfb_mode.md rule R151: the output is as long as the input. -/
def Obligations.CfbLength : Prop :=
  ∀ (sbox : SBox) (key : KeyFile) (iv : Block) (dir : Direction) (bytes : List Byte),
    (cfbTransform sbox key iv dir bytes).length = bytes.length

/-- 41_cfb_mode.md rule R153: the first chunk comes out the same in both directions, the stream xor `E(K, IV)`. -/
def Obligations.FirstChunk : Prop :=
  ∀ (sbox : SBox) (key : KeyFile) (iv : Block) (dir : Direction) (bytes : List Byte),
    (cfbTransform sbox key iv dir bytes).take 8 =
      List.zipWith (· ^^^ ·) (bytes.take 8) (blockTransform sbox key iv).toList

/-- 41_cfb_mode.md rule R153: the output over the full chunks at the start of a stream is that of those chunks alone. -/
def Obligations.FullChunksAlone : Prop :=
  ∀ (sbox : SBox) (key : KeyFile) (iv : Block) (dir : Direction) (a b : List Byte), a.length % 8 = 0 →
    (cfbTransform sbox key iv dir (a ++ b)).take a.length = cfbTransform sbox key iv dir a

/-- 41_cfb_mode.md rule R152: when decrypting, the keystream of pass `p + 1` is the transform of input chunk `p`, so byte `j`
of that pass depends on the input alone. -/
def Obligations.DecryptKeystream : Prop :=
  ∀ (sbox : SBox) (key : KeyFile) (iv : Block) (bytes : List Byte) (p j : Nat) (hj : j < 8),
    8 * (p + 1) + j < bytes.length →
    (cfbTransform sbox key iv .decrypt bytes)[8 * (p + 1) + j]? =
      (bytes[8 * (p + 1) + j]?).map
        (· ^^^ (blockTransform sbox key (padBlock ((bytes.drop (8 * p)).take 8)))[j])

/-- 41_cfb_mode.md rule R149: from any state with a key and an IV, the host's sequence for a stream runs to its end, every
command in it succeeds, and the host reads exactly the CFB transform of the stream. (That the host's accesses stand in the
state and its reads are recorded there is the model's choice: log entries 1 and 2.) -/
def Obligations.CommandSequenceIsTransform : Prop :=
  ∀ (dir : Direction) (bytes : List Byte) (rest : List HostEvent) (s : State), s.keyv = true → s.ivv = true →
    s.pending = programEvents (streamProgram dir bytes) ++ rest →
    (∃ t, Reaches (programEvents (streamProgram dir bytes)).length s t ∧ t.pending = rest ∧
      t.observed = s.observed ++ (cfbTransform Config.sbox s.k s.ivreg dir bytes).map .data) ∧
    (∀ m : Nat, 1 ≤ m → m ≤ (programEvents (streamProgram dir bytes)).length → ∃ u, Reaches m s u ∧ u.err = .ok)

/-! ### The host window -/

/-- 20_memory.md rule R53: what each host write does. -/
def Obligations.HostWrites : Prop :=
  ∀ (v : Byte) (s : State),
    (∀ (j : Nat) (h : j < 32), hostWrite (BitVec.ofNat 6 j) v s = .next { s with keybuf := s.keybuf.set j v }) ∧
    (∀ (j : Nat) (h : j < 8), hostWrite (BitVec.ofNat 6 (0x20 + j)) v s = .next { s with ivbuf := s.ivbuf.set j v }) ∧
    (∀ (j : Nat) (h : j < 8), hostWrite (BitVec.ofNat 6 (0x28 + j)) v s = .next { s with din := s.din.set j v }) ∧
    hostWrite 0x39#6 v s = .next { s with len := v } ∧
    hostWrite 0x38#6 v s = issueCommand v s ∧
    (∀ off : Offset, (0x30 ≤ off.toNat ∧ off.toNat < 0x38) ∨ 0x3A ≤ off.toNat →
      hostWrite off v s = .fault (.busError off))

/-- 20_memory.md rule R54: what each host read returns, and that it changes no register (that the host keeps a list of what it
read is the model's choice: log entry 2). -/
def Obligations.HostReads : Prop :=
  ∀ s : State,
    (∀ (j : Nat) (h : j < 8), hostRead (BitVec.ofNat 6 (0x20 + j)) s = .ok s.ivbuf[j]) ∧
    (∀ (j : Nat) (h : j < 8), hostRead (BitVec.ofNat 6 (0x28 + j)) s = .ok s.din[j]) ∧
    (∀ (j : Nat) (h : j < 8), hostRead (BitVec.ofNat 6 (0x30 + j)) s = .ok s.dout[j]) ∧
    hostRead 0x39#6 s = .ok s.len ∧ hostRead 0x3A#6 s = .ok (statusByte s) ∧ hostRead 0x3B#6 s = .ok (errByte s.err) ∧
    (∀ off : Offset, off.toNat < 0x20 ∨ off = 0x38#6 ∨ 0x3C ≤ off.toNat → hostRead off s = .error (.busError off)) ∧
    (∀ (off : Offset) (t : State), access (.read off) s = .next t → t = { s with observed := t.observed })

/-- 60_exceptions.md rule R171: exactly which accesses raise BusError. -/
def Obligations.BusErrorCauses : Prop :=
  ∀ (off : Offset) (v : Byte) (s : State),
    (access (.read off) s = .fault (.busError off) ↔
      off.toNat < 0x20 ∨ off.toNat = 0x38 ∨ (0x3C ≤ off.toNat ∧ off.toNat ≤ 0x3F)) ∧
    (access (.write off v) s = .fault (.busError off) ↔
      (0x30 ≤ off.toNat ∧ off.toNat ≤ 0x37) ∨ off.toNat = 0x3A ∨ off.toNat = 0x3B ∨ (0x3C ≤ off.toNat ∧ off.toNat ≤ 0x3F)) ∧
    (∀ (a : Access) (f : Fault), access a s = .fault f → f = .busError (match a with | .read o => o | .write o _ => o))

/-- 60_exceptions.md rule R172: an access that raises BusError changes no register, and the next access follows. (How the fault
reaches the host is the platform's; that the model records which access faulted is log entry 2.) -/
def Obligations.BusErrorChangesNothing : Prop :=
  ∀ (a : Access) (off : Offset) (rest : List HostEvent) (s : State), s.pending = .access a :: rest →
    access a { s with pending := rest } = .fault (.busError off) →
    step s = .next { s with pending := rest, observed := s.observed ++ [.busError a] }

/-- 30_encoding.md rule R89: a `rd` adds exactly its byte, or the BusError it raises, to the program's observation; a `wr`, a
faulting one and one that issues a command included, and reset add nothing. (That the accesses and what they gave stand in the
state is log entries 1 and 2.) -/
def Obligations.RdObservations : Prop :=
  (∀ (off : Offset) (rest : List HostEvent) (s : State), s.pending = .access (.read off) :: rest →
    ∃ t, step s = .next t ∧ t.programObservation = s.programObservation ++ [readRecord off s]) ∧
  (∀ (off : Offset) (v : Byte) (rest : List HostEvent) (s : State), s.pending = .access (.write off v) :: rest →
    ∃ t, step s = .next t ∧ t.programObservation = s.programObservation) ∧
  (∀ (rest : List HostEvent) (s : State), s.pending = .reset :: rest →
    ∃ t, step s = .next t ∧ t.programObservation = s.programObservation)

/-- 30_encoding.md rules R89 and R91: every program runs to its end, whatever faults on the way, and its observation has one
entry for each of its reads, neither more nor fewer (log entries 1 and 2 as above). -/
def Obligations.ProgramObservation : Prop :=
  ∀ (p : List Stmt) (rest : List HostEvent) (s : State), s.pending = programEvents p ++ rest →
    ∃ t, Reaches (expandProgram p).length s t ∧ t.pending = rest ∧ ∃ recorded : List Observation,
      t.programObservation = s.programObservation ++ recorded ∧
      recorded.length = ((expandProgram p).filter fun a => match a with | .read _ => true | .write _ _ => false).length

/-- 20_memory.md rule R60: a read returns the most recent write of its byte, and a write leaves every other byte of the window
as it was. -/
def Obligations.ReadAfterWrite : Prop :=
  ∀ (off : Offset) (v : Byte) (s t : State), off ≠ 0x38#6 → hostWrite off v s = .next t →
    (∀ old : Byte, hostRead off s = .ok old → hostRead off t = .ok v) ∧
    (∀ other : Offset, other ≠ off → hostRead other t = hostRead other s)

/-- 10_state.md rules R28 and R33: the STATUS layout. -/
def Obligations.StatusLayout : Prop :=
  (∀ s : State, (statusByte s).getLsbD 0 = s.keyv ∧ (statusByte s).getLsbD 1 = s.ivv ∧
    (statusByte s).getLsbD 2 = s.active ∧ (statusByte s).getLsbD 3 = decide (s.mode = .decrypt) ∧
    (statusByte s).extractLsb' 4 4 = 0#4 ∧ hostRead 0x3A#6 s = .ok (statusByte s) ∧
    (∀ v : Byte, hostWrite 0x3A#6 v s = .fault (.busError 0x3A#6))) ∧
  hostRead 0x3A#6 State.reset = .ok 0x00#8

/-- 60_exceptions.md rule R173, the code column: the eight codes are 0x00 to 0x07 and ERR reads as one of them. -/
def Obligations.ErrorCodes : Prop :=
  errByte .ok = 0x00#8 ∧ errByte .invalidKeySize = 0x01#8 ∧ errByte .invalidIVSize = 0x02#8 ∧
  errByte .invalidBlockSize = 0x03#8 ∧ errByte .illegalCommand = 0x04#8 ∧ errByte .keyNotLoaded = 0x05#8 ∧
  errByte .ivNotLoaded = 0x06#8 ∧ errByte .cfbNotActive = 0x07#8 ∧
  (∀ s : State, ∃ b, hostRead 0x3B#6 s = .ok b ∧ b ≤ 0x07#8)

/-- 10_state.md rules R22, R35 to R37 and 60_exceptions.md rule R189: no read depends on KEYBUF, K, IVREG or FB. -/
def Obligations.ReadsHideSecrets : Prop :=
  ∀ (off : Offset) (s : State) (kb : KeyBytes) (key : KeyFile) (iv fb : Block),
    hostRead off { s with keybuf := kb, k := key, ivreg := iv, fb := fb } = hostRead off s

/-! ### Steps -/

/-- 30_encoding.md rule R80: a write to CMD issues the command word `LEN || c`, and the step runs exactly the command it decodes
to, one host event further (log entry 1). -/
def Obligations.StepRunsCommand : Prop :=
  ∀ (c : Byte) (i : Instr) (rest : List HostEvent) (s : State), s.pending = .access (.write 0x38#6 c) :: rest →
    decode (s.len ++ c) = .command i → step s = exec i { s with pending := rest }

/-- 30_encoding.md rule R80, for the host's own entry: the state with a fetched word runs the instruction the decoder reads from
that word, with LEN as the word presents it. (That a fetched word stands for the host's issue of it is the model's choice, log
entry 1; that a short table word is filled with zeros is its inference, log entry 12.) -/
def Obligations.FetchWordRuns : Prop :=
  ∀ (nbits w : Nat) (i : Instr) (s : State), decodeTableWord nbits w = some i →
    step (s.withFetchWord nbits w) = exec i { s with len := (tableWord nbits w).extractLsb' 8 8 }

/-- 70_reset_and_hazards.md rule R213 and 10_state.md rule R21: every command completes and no step stops the machine (a bus
fault is reported to the host: log entry 2). -/
def Obligations.EveryStepCompletes : Prop :=
  (∀ (i : Instr) (s : State), ∃ t, exec i s = .next t) ∧ (∀ s : State, ∃ t, step s = .next t)

/-- 60_exceptions.md rule R190: with no host access the CORE keeps all its state. -/
def Obligations.IdleKeepsState : Prop := ∀ s : State, s.pending = [] → step s = .next s

/-- 70_reset_and_hazards.md rule R200: reset, between two accesses, sets every register to its reset value; it keeps the host's
side of the bus (log entry 4). -/
def Obligations.ResetStep : Prop :=
  ∀ (rest : List HostEvent) (s : State), s.pending = .reset :: rest →
    step s = .next { State.reset with pending := rest, observed := s.observed }

/-- 70_reset_and_hazards.md rule R201: every register's reset value. -/
def Obligations.ResetValues : Prop :=
  State.reset.keybuf = Vector.replicate 32 0x00#8 ∧ State.reset.ivbuf = Vector.replicate 8 0x00#8 ∧
  State.reset.din = Vector.replicate 8 0x00#8 ∧ State.reset.dout = Vector.replicate 8 0x00#8 ∧
  State.reset.len = 0x00#8 ∧ statusByte State.reset = 0x00#8 ∧ errByte State.reset.err = 0x00#8 ∧
  State.reset.k = Vector.replicate 8 0x00000000#32 ∧ State.reset.ivreg = Vector.replicate 8 0x00#8 ∧
  State.reset.fb = Vector.replicate 8 0x00#8

/-- 70_reset_and_hazards.md rule R202: after reset EBLK, CFBINIT and CFBCHUNK fail with the code of R176, whatever LEN the host
has written. -/
def Obligations.CommandsAfterReset : Prop :=
  ∀ len : Byte,
    (issueCommand 0x02#8 { State.reset with len := len } =
      .next { State.reset with len := len, err := if len = 8#8 then .keyNotLoaded else .invalidBlockSize }) ∧
    (issueCommand 0x04#8 { State.reset with len := len } = .next { State.reset with len := len, err := .keyNotLoaded }) ∧
    (issueCommand 0x14#8 { State.reset with len := len } = .next { State.reset with len := len, err := .keyNotLoaded }) ∧
    (issueCommand 0x05#8 { State.reset with len := len } =
      .next { State.reset with len := len, err := if len = 0#8 ∨ 8#8 < len then .invalidBlockSize else .cfbNotActive })

/-- 10_state.md rules R29, R30, R35, R36: in one step, K changes or KEYV is set only by a successful LDKEY (or, for K, reset),
IVREG changes or IVV is set only by a successful LDIV (or reset), and only reset clears KEYV or IVV. -/
def Obligations.KeyAndIvChangeOnlyWhenLoaded : Prop :=
  ∀ s t : State, step s = .next t →
    (t.k ≠ s.k → (∃ rest, s.pending = .reset :: rest) ∨
      (∃ rest, s.pending = .access (.write 0x38#6 0x01#8) :: rest ∧ s.len = 32#8 ∧ t.active = false)) ∧
    (s.keyv = false → t.keyv = true → ∃ rest, s.pending = .access (.write 0x38#6 0x01#8) :: rest ∧ s.len = 32#8) ∧
    (s.keyv = true → t.keyv = false → ∃ rest, s.pending = .reset :: rest) ∧
    (t.ivreg ≠ s.ivreg → (∃ rest, s.pending = .reset :: rest) ∨
      (∃ rest, s.pending = .access (.write 0x38#6 0x03#8) :: rest ∧ s.len = 8#8 ∧ t.active = false)) ∧
    (s.ivv = false → t.ivv = true → ∃ rest, s.pending = .access (.write 0x38#6 0x03#8) :: rest ∧ s.len = 8#8) ∧
    (s.ivv = true → t.ivv = false → ∃ rest, s.pending = .reset :: rest)

/-- 10_state.md rules R31 and R32: what sets and clears ACTIVE, and what changes MODE. -/
def Obligations.ActiveAndModeChange : Prop :=
  ∀ s t : State, step s = .next t →
    (s.active = false → t.active = true → ∃ rest,
      s.pending = .access (.write 0x38#6 0x04#8) :: rest ∨ s.pending = .access (.write 0x38#6 0x14#8) :: rest) ∧
    (s.active = true → t.active = false → ∃ rest, s.pending = .reset :: rest ∨
      (s.pending = .access (.write 0x38#6 0x05#8) :: rest ∧ s.len < 8#8) ∨
      s.pending = .access (.write 0x38#6 0x01#8) :: rest ∨ s.pending = .access (.write 0x38#6 0x03#8) :: rest) ∧
    (t.mode ≠ s.mode → ∃ rest, s.pending = .reset :: rest ∨
      (s.pending = .access (.write 0x38#6 0x04#8) :: rest ∧ t.mode = .encrypt) ∨
      (s.pending = .access (.write 0x38#6 0x14#8) :: rest ∧ t.mode = .decrypt))

/-- 10_state.md rule R34: ERR changes only when a command completes or on reset; no other bus access writes it. -/
def Obligations.OnlyCommandsWriteErr : Prop :=
  ∀ s t : State, step s = .next t → t.err ≠ s.err →
    ∃ rest, s.pending = .reset :: rest ∨ ∃ c, s.pending = .access (.write 0x38#6 c) :: rest

/-! ### Invariants and runs -/

/-- Every step keeps the invariant: R40 for ACTIVE, and R25, R32, R35 to R37 for what no command has written yet. -/
def Obligations.StepKeepsInv : Prop := ∀ s t : State, StateInv s → step s = .next t → StateInv t

/-- The invariant holds at reset. -/
def Obligations.ResetHasInv : Prop := StateInv State.reset

/-- 10_state.md rule R40: in every state reachable from reset, by any host events, ACTIVE implies KEYV and IVV. -/
def Obligations.ReachableActiveLoaded : Prop :=
  ∀ (n : Nat) (events : List HostEvent) (t : State), Reaches n { State.reset with pending := events } t →
    t.active = true → t.keyv = true ∧ t.ivv = true

/-- 10_state.md rules R35 to R37 and 92_eei_decisions.md D26: a hidden register that its valid bit does not cover is never
observable. Two states that agree on all else, and satisfy R40, give the host the same observations in every run. -/
def Obligations.HiddenRegistersUnobservable : Prop :=
  ∀ (n : Nat) (s s' t : State), ActiveLoaded s → SameToHost s s' → Reaches n s t →
    ∃ t', Reaches n s' t' ∧ SameToHost t t' ∧ t.observed = t'.observed

/-- 30_encoding.md rule R90: the expansion of every pseudo-instruction. -/
def Obligations.PseudoInstructions : Prop :=
  (∀ c n : Byte, (Stmt.cmd c n).expand = [.write 0x39#6 n, .write 0x38#6 c]) ∧
  (∀ n : Byte, (Stmt.ldkey n).expand = (Stmt.cmd 0x01#8 n).expand ∧ (Stmt.eblk n).expand = (Stmt.cmd 0x02#8 n).expand ∧
    (Stmt.ldiv n).expand = (Stmt.cmd 0x03#8 n).expand ∧ (Stmt.cfbchunk n).expand = (Stmt.cmd 0x05#8 n).expand) ∧
  (readLine "ldkey".toList = some [.ldkey 32#8] ∧ readLine "eblk".toList = some [.eblk 8#8] ∧
    readLine "ldiv".toList = some [.ldiv 8#8]) ∧
  ((Stmt.cfbinit .encrypt).expand = [.write 0x38#6 0x04#8] ∧ (Stmt.cfbinit .decrypt).expand = [.write 0x38#6 0x14#8]) ∧
  (∀ b : KeyBytes, (Stmt.wrkey b).expand = List.ofFn fun j : Fin 32 => .write (BitVec.ofNat 6 j.val) b[j]) ∧
  (∀ b : Block, (Stmt.wriv b).expand = List.ofFn fun j : Fin 8 => .write (BitVec.ofNat 6 (0x20 + j.val)) b[j]) ∧
  (∀ bytes : List Byte, bytes.length ≤ 8 → (Stmt.wrdin bytes).expand =
    List.ofFn fun j : Fin bytes.length => .write (BitVec.ofNat 6 (0x28 + j.val)) bytes[j]) ∧
  (∀ n : Nat, n ≤ 8 → (Stmt.rddout n).expand = List.ofFn fun j : Fin n => .read (BitVec.ofNat 6 (0x30 + j.val))) ∧
  Stmt.rdstat.expand = [.read 0x3A#6, .read 0x3B#6]
end

