-- ==== Sys2Proof/Laws/Cipher.lean ====
section
/-! SUPPORT. The small lemmas of the block unit's and the CFB engine's functions, byte by byte. -/

namespace Sys2Proof.Machine

/-- The number of two bit strings put together. -/
theorem toNat_append_add {a b : Nat} (x : BitVec a) (y : BitVec b) : (x ++ y).toNat = x.toNat * 2 ^ b + y.toNat := by
  rw [BitVec.toNat_append, Nat.shiftLeft_eq, ← Nat.shiftLeft_eq, ← Nat.shiftLeft_add_eq_or_of_lt y.isLt]

/-- The number of eight nibbles put together. -/
theorem toNat_eight_nibbles (a7 a6 a5 a4 a3 a2 a1 a0 : BitVec 4) :
    (a7 ++ (a6 ++ (a5 ++ (a4 ++ (a3 ++ (a2 ++ (a1 ++ a0)))))) : BitVec 32).toNat =
      a7.toNat * 2 ^ 28 + a6.toNat * 2 ^ 24 + a5.toNat * 2 ^ 20 + a4.toNat * 2 ^ 16 + a3.toNat * 2 ^ 12 +
        a2.toNat * 2 ^ 8 + a1.toNat * 2 ^ 4 + a0.toNat := by
  simp only [toNat_append_add]
  omega

@[simp] theorem halvesAfter_zero (sbox : SBox) (key : KeyFile) (x : Block) (h : 0 ≤ 32) :
    halvesAfter sbox key x 0 h = blockHalves x := rfl

theorem halvesAfter_succ (sbox : SBox) (key : KeyFile) (x : Block) (n : Nat) (h : n + 1 ≤ 32) :
    halvesAfter sbox key x (n + 1) h =
      feistelRound sbox key[subkeyIndex ⟨n, h⟩] (halvesAfter sbox key x n (Nat.le_of_succ_le h)) := rfl

theorem blockTransform_eq (sbox : SBox) (key : KeyFile) (x : Block) :
    blockTransform sbox key x =
      bytesOfWords (halvesAfter sbox key x 32 (Nat.le_refl _)).right (halvesAfter sbox key x 32 (Nat.le_refl _)).left :=
  rfl

theorem keyWords_getElem (kb : KeyBytes) (i : Nat) (h : i < 8) :
    (keyWords kb)[i] = be32 kb[4 * i] kb[4 * i + 1] kb[4 * i + 2] kb[4 * i + 3] := by
  simp [keyWords]

theorem chunkOutput_getElem (n : Nat) (din ks : Block) (j : Nat) (h : j < 8) :
    (chunkOutput n din ks)[j] = if j < n then din[j] ^^^ ks[j] else 0#8 := by
  simp [chunkOutput]

theorem nextFeedback_getElem (n : Nat) (mode : Direction) (din out : Block) (j : Nat) (h : j < 8) :
    (nextFeedback n mode din out)[j] =
      if j < n then (feedbackSource mode din out)[j] else 0#8 := by
  simp [nextFeedback]

@[simp] theorem feedbackSource_encrypt (din out : Block) : feedbackSource .encrypt din out = out := rfl

@[simp] theorem feedbackSource_decrypt (din out : Block) : feedbackSource .decrypt din out = din := rfl

theorem padBlock_getElem (bytes : List Byte) (j : Nat) (h : j < 8) : (padBlock bytes)[j] = bytes.getD j 0#8 := by
  simp [padBlock]

@[simp] theorem cfbPasses_zero (sbox : SBox) (key : KeyFile) (dir : Direction) (fb : Block) (bytes : List Byte) :
    cfbPasses sbox key dir 0 fb bytes = [] := rfl

/-- One pass of R141, the direction left open. -/
theorem cfbPasses_succ (sbox : SBox) (key : KeyFile) (dir : Direction) (passes : Nat) (fb : Block) (bytes : List Byte) :
    cfbPasses sbox key dir (passes + 1) fb bytes =
      List.zipWith (· ^^^ ·) (bytes.take 8) (blockTransform sbox key fb).toList ++
        cfbPasses sbox key dir passes
          (padBlock (match dir with
            | .encrypt => List.zipWith (· ^^^ ·) (bytes.take 8) (blockTransform sbox key fb).toList
            | .decrypt => bytes.take 8))
          (bytes.drop 8) := rfl

theorem cfbPassCount_zero : cfbPassCount 0 = 0 := rfl

/-- A stream that is not empty has one pass more than what follows its first chunk. -/
theorem cfbPassCount_pos {n : Nat} (h : 0 < n) : cfbPassCount n = cfbPassCount (n - 8) + 1 := by
  unfold cfbPassCount
  omega

/-- What CFBCHUNK changes. -/
theorem chunkStep_eq (sbox : SBox) (n : Nat) (s : State) :
    chunkStep sbox n s =
      s.putChunk (chunkOutput n s.din (blockTransform sbox s.k s.fb))
        (nextFeedback n s.mode s.din (chunkOutput n s.din (blockTransform sbox s.k s.fb))) (decide (n < 8)) := rfl

end Sys2Proof.Machine
end

