-- ==== Sys2Proof/Laws/PerInstr.lean ====
section
/-! SUPPORT. Statements about every command as syntax, one lemma for each constructor of Instr. -/

/-- The reserved field of a command's word is 000 (30_encoding.md rule R81). -/
def Sys2Proof.Laws.ReservedZero.Statement (i : Sys2Proof.Instr) : Prop :=
  Sys2Proof.cwRsv (Sys2Proof.encode i) = 0#3

/-- The length field of a well-formed command's word is the command's length (30_encoding.md rule R81). -/
def Sys2Proof.Laws.LengthField.Statement (i : Sys2Proof.Instr) : Prop :=
  i.WellFormed → (Sys2Proof.cwLen (Sys2Proof.encode i)).toNat = i.len

namespace Sys2Proof.Laws

/-- The high byte of two bytes put together. -/
theorem cwLen_append (hi lo : Byte) : cwLen (hi ++ lo) = hi := by
  ext j hj
  simp only [cwLen, BitVec.getElem_extractLsb', BitVec.getLsbD_append]
  rw [if_neg (by omega), Nat.add_sub_cancel_left, BitVec.getLsbD_eq_getElem]

/-- The low byte of two bytes put together. -/
theorem cwByte_append (hi lo : Byte) : cwByte (hi ++ lo) = lo := by
  ext j hj
  simp only [cwByte, BitVec.getElem_extractLsb', BitVec.getLsbD_append, Nat.zero_add]
  rw [if_pos hj, BitVec.getLsbD_eq_getElem]

/-- The length field of a packed word. -/
theorem cwLen_packWord (len : Nat) (dir : BitVec 1) (op : BitVec 4) :
    cwLen (packWord len dir op) = BitVec.ofNat 8 len := cwLen_append _ _

/-- The low byte of a packed word does not depend on its length. -/
theorem packWord_low (len : Nat) (dir : BitVec 1) (op : BitVec 4) :
    cwByte (packWord len dir op) = 0#3 ++ (dir ++ op) := cwByte_append _ _

/-- The reserved field is bits 7:5 of the low byte. -/
theorem cwRsv_eq_byte (w : CommandWord) : cwRsv w = (cwByte w).extractLsb' 5 3 := by
  ext j hj
  simp only [cwRsv, cwByte, BitVec.getElem_extractLsb', BitVec.getLsbD_extractLsb']
  simp [show 5 + j < 8 by omega]

/-- The reserved field of a packed word is 000. -/
theorem cwRsv_packWord (len : Nat) (dir : BitVec 1) (op : BitVec 4) : cwRsv (packWord len dir op) = 0#3 := by
  rw [cwRsv_eq_byte, packWord_low]
  revert dir op
  decide

/-- A count below 256 survives its 8-bit field. -/
theorem toNat_ofNat_byte {len : Nat} (h : len < 2 ^ 8) : (BitVec.ofNat 8 len).toNat = len := by
  rw [BitVec.toNat_ofNat, Nat.mod_eq_of_lt h]

theorem ReservedZero.ldkey (len : Nat) : ReservedZero.Statement (.ldkey len) := cwRsv_packWord len _ _
theorem ReservedZero.eblk (len : Nat) : ReservedZero.Statement (.eblk len) := cwRsv_packWord len _ _
theorem ReservedZero.ldiv (len : Nat) : ReservedZero.Statement (.ldiv len) := cwRsv_packWord len _ _
theorem ReservedZero.cfbinit (len : Nat) (dir : Direction) : ReservedZero.Statement (.cfbinit len dir) :=
  cwRsv_packWord len _ _
theorem ReservedZero.cfbchunk (len : Nat) : ReservedZero.Statement (.cfbchunk len) := cwRsv_packWord len _ _

theorem LengthField.ldkey (len : Nat) : LengthField.Statement (.ldkey len) :=
  fun h => (congrArg BitVec.toNat (cwLen_packWord len _ _)).trans (toNat_ofNat_byte h)
theorem LengthField.eblk (len : Nat) : LengthField.Statement (.eblk len) :=
  fun h => (congrArg BitVec.toNat (cwLen_packWord len _ _)).trans (toNat_ofNat_byte h)
theorem LengthField.ldiv (len : Nat) : LengthField.Statement (.ldiv len) :=
  fun h => (congrArg BitVec.toNat (cwLen_packWord len _ _)).trans (toNat_ofNat_byte h)
theorem LengthField.cfbinit (len : Nat) (dir : Direction) : LengthField.Statement (.cfbinit len dir) :=
  fun h => (congrArg BitVec.toNat (cwLen_packWord len _ _)).trans (toNat_ofNat_byte h)
theorem LengthField.cfbchunk (len : Nat) : LengthField.Statement (.cfbchunk len) :=
  fun h => (congrArg BitVec.toNat (cwLen_packWord len _ _)).trans (toNat_ofNat_byte h)

end Sys2Proof.Laws
end

