-- ==== Sys2Proof/Laws/Decode.lean ====
section
/-! SUPPORT. The decoder on a word made of its two bytes: what each value of the command byte decodes to. -/

namespace Sys2Proof.Laws

open Sys2Proof.Machine

/-- A command word is its two bytes. -/
theorem word_eq_append (w : CommandWord) : w = cwLen w ++ cwByte w := by
  apply BitVec.eq_of_getLsbD_eq
  intro j hj
  rw [BitVec.getLsbD_append]
  simp only [cwLen, cwByte, BitVec.getLsbD_extractLsb']
  split
  · simp [*]
  · rw [show 8 + (j - 8) = j by omega]
    simp [show j - 8 < 8 by omega]

/-- A field inside the low byte is a field of that byte. -/
theorem extract_append_low (hi lo : Byte) (a n : Nat) (h : a + n ≤ 8) :
    (hi ++ lo).extractLsb' a n = lo.extractLsb' a n := by
  ext j hj
  simp only [BitVec.getElem_extractLsb']
  rw [BitVec.getLsbD_append, if_pos (by omega)]

/-- The decoding function of R88 on the bytes LEN and c: the command is selected by c alone. -/
theorem decode_append (len c : Byte) : decode (len ++ c) =
    if c.extractLsb' 5 3 ≠ 0#3 then .illegal .reservedBits
    else if c.extractLsb' 0 4 = 0x1#4 then
      (if c.extractLsb' 4 1 = 0#1 then .command (.ldkey len.toNat) else .illegal .dirNotAllowed)
    else if c.extractLsb' 0 4 = 0x2#4 then
      (if c.extractLsb' 4 1 = 0#1 then .command (.eblk len.toNat) else .illegal .dirNotAllowed)
    else if c.extractLsb' 0 4 = 0x3#4 then
      (if c.extractLsb' 4 1 = 0#1 then .command (.ldiv len.toNat) else .illegal .dirNotAllowed)
    else if c.extractLsb' 0 4 = 0x4#4 then .command (.cfbinit len.toNat (dirOfBit (c.extractLsb' 4 1)))
    else if c.extractLsb' 0 4 = 0x5#4 then
      (if c.extractLsb' 4 1 = 0#1 then .command (.cfbchunk len.toNat) else .illegal .dirNotAllowed)
    else .illegal .unknownOp := by
  unfold decode needsDirZero
  rw [cwLen_append]
  unfold cwRsv cwDir cwOp
  rw [extract_append_low _ _ 5 3 (by omega), extract_append_low _ _ 4 1 (by omega),
    extract_append_low _ _ 0 4 (by omega)]

/-- A byte whose top three bits are zero is below 32. -/
theorem toNat_lt_of_rsv {c : Byte} (h : c.extractLsb' 5 3 = 0#3) : c.toNat < 32 := by
  have := congrArg BitVec.toNat h
  simp [BitVec.extractLsb'_toNat, Nat.shiftRight_eq_div_pow] at this
  omega

/-- What a command word decodes to, by its low byte: one of the six legal values, or any other (R85). -/
theorem decode_append_cases (len c : Byte) :
    (c = 0x01#8 ∧ decode (len ++ c) = .command (.ldkey len.toNat)) ∨
    (c = 0x02#8 ∧ decode (len ++ c) = .command (.eblk len.toNat)) ∨
    (c = 0x03#8 ∧ decode (len ++ c) = .command (.ldiv len.toNat)) ∨
    (c = 0x04#8 ∧ decode (len ++ c) = .command (.cfbinit len.toNat .encrypt)) ∨
    (c = 0x14#8 ∧ decode (len ++ c) = .command (.cfbinit len.toNat .decrypt)) ∨
    (c = 0x05#8 ∧ decode (len ++ c) = .command (.cfbchunk len.toNat)) ∨
    ((c ≠ 0x01#8 ∧ c ≠ 0x02#8 ∧ c ≠ 0x03#8 ∧ c ≠ 0x04#8 ∧ c ≠ 0x14#8 ∧ c ≠ 0x05#8) ∧
      ∃ why, decode (len ++ c) = .illegal why) := by
  rw [decode_append]
  generalize len.toNat = n
  by_cases h : c.extractLsb' 5 3 = 0#3
  · obtain ⟨m, rfl⟩ : ∃ m : Fin 32, c = BitVec.ofNat 8 m := ⟨⟨c.toNat, toNat_lt_of_rsv h⟩, by simp⟩
    clear h
    fin_cases m <;> simp [dirOfBit]
  · simp only [ne_eq, h, not_false_eq_true, if_true]
    refine .inr (.inr (.inr (.inr (.inr (.inr ⟨⟨?_, ?_, ?_, ?_, ?_, ?_⟩, _, rfl⟩))))) <;>
      (rintro rfl; exact h (by decide))

/-- The command word of a CMD write is its two bytes. -/
theorem commandWord_eq (len c : Byte) : commandWord len c = len ++ c := rfl

end Sys2Proof.Laws
end

