-- ==== Sys2Proof/Laws/State.lean ====
section
/-! SUPPORT. One lemma per field per state update (10_state.md rule R43, read column by column), so that no proof unfolds a
record update. -/

namespace Sys2Proof.Machine

@[simp] theorem State.setErr_keybuf (s : State) (e : ErrCode) : (s.setErr e).keybuf = s.keybuf := rfl
@[simp] theorem State.setErr_ivbuf (s : State) (e : ErrCode) : (s.setErr e).ivbuf = s.ivbuf := rfl
@[simp] theorem State.setErr_din (s : State) (e : ErrCode) : (s.setErr e).din = s.din := rfl
@[simp] theorem State.setErr_dout (s : State) (e : ErrCode) : (s.setErr e).dout = s.dout := rfl
@[simp] theorem State.setErr_len (s : State) (e : ErrCode) : (s.setErr e).len = s.len := rfl
@[simp] theorem State.setErr_err (s : State) (e : ErrCode) : (s.setErr e).err = e := rfl
@[simp] theorem State.setErr_keyv (s : State) (e : ErrCode) : (s.setErr e).keyv = s.keyv := rfl
@[simp] theorem State.setErr_ivv (s : State) (e : ErrCode) : (s.setErr e).ivv = s.ivv := rfl
@[simp] theorem State.setErr_active (s : State) (e : ErrCode) : (s.setErr e).active = s.active := rfl
@[simp] theorem State.setErr_mode (s : State) (e : ErrCode) : (s.setErr e).mode = s.mode := rfl
@[simp] theorem State.setErr_k (s : State) (e : ErrCode) : (s.setErr e).k = s.k := rfl
@[simp] theorem State.setErr_ivreg (s : State) (e : ErrCode) : (s.setErr e).ivreg = s.ivreg := rfl
@[simp] theorem State.setErr_fb (s : State) (e : ErrCode) : (s.setErr e).fb = s.fb := rfl
@[simp] theorem State.setErr_pending (s : State) (e : ErrCode) : (s.setErr e).pending = s.pending := rfl
@[simp] theorem State.setErr_observed (s : State) (e : ErrCode) : (s.setErr e).observed = s.observed := rfl

@[simp] theorem State.loadKey_keybuf (s : State) (w : KeyFile) : (s.loadKey w).keybuf = s.keybuf := rfl
@[simp] theorem State.loadKey_ivbuf (s : State) (w : KeyFile) : (s.loadKey w).ivbuf = s.ivbuf := rfl
@[simp] theorem State.loadKey_din (s : State) (w : KeyFile) : (s.loadKey w).din = s.din := rfl
@[simp] theorem State.loadKey_dout (s : State) (w : KeyFile) : (s.loadKey w).dout = s.dout := rfl
@[simp] theorem State.loadKey_len (s : State) (w : KeyFile) : (s.loadKey w).len = s.len := rfl
@[simp] theorem State.loadKey_err (s : State) (w : KeyFile) : (s.loadKey w).err = s.err := rfl
@[simp] theorem State.loadKey_keyv (s : State) (w : KeyFile) : (s.loadKey w).keyv = true := rfl
@[simp] theorem State.loadKey_ivv (s : State) (w : KeyFile) : (s.loadKey w).ivv = s.ivv := rfl
@[simp] theorem State.loadKey_active (s : State) (w : KeyFile) : (s.loadKey w).active = false := rfl
@[simp] theorem State.loadKey_mode (s : State) (w : KeyFile) : (s.loadKey w).mode = s.mode := rfl
@[simp] theorem State.loadKey_k (s : State) (w : KeyFile) : (s.loadKey w).k = w := rfl
@[simp] theorem State.loadKey_ivreg (s : State) (w : KeyFile) : (s.loadKey w).ivreg = s.ivreg := rfl
@[simp] theorem State.loadKey_fb (s : State) (w : KeyFile) : (s.loadKey w).fb = s.fb := rfl
@[simp] theorem State.loadKey_pending (s : State) (w : KeyFile) : (s.loadKey w).pending = s.pending := rfl
@[simp] theorem State.loadKey_observed (s : State) (w : KeyFile) : (s.loadKey w).observed = s.observed := rfl

@[simp] theorem State.putBlock_keybuf (s : State) (y : Block) : (s.putBlock y).keybuf = s.keybuf := rfl
@[simp] theorem State.putBlock_ivbuf (s : State) (y : Block) : (s.putBlock y).ivbuf = s.ivbuf := rfl
@[simp] theorem State.putBlock_din (s : State) (y : Block) : (s.putBlock y).din = s.din := rfl
@[simp] theorem State.putBlock_dout (s : State) (y : Block) : (s.putBlock y).dout = y := rfl
@[simp] theorem State.putBlock_len (s : State) (y : Block) : (s.putBlock y).len = s.len := rfl
@[simp] theorem State.putBlock_err (s : State) (y : Block) : (s.putBlock y).err = s.err := rfl
@[simp] theorem State.putBlock_keyv (s : State) (y : Block) : (s.putBlock y).keyv = s.keyv := rfl
@[simp] theorem State.putBlock_ivv (s : State) (y : Block) : (s.putBlock y).ivv = s.ivv := rfl
@[simp] theorem State.putBlock_active (s : State) (y : Block) : (s.putBlock y).active = s.active := rfl
@[simp] theorem State.putBlock_mode (s : State) (y : Block) : (s.putBlock y).mode = s.mode := rfl
@[simp] theorem State.putBlock_k (s : State) (y : Block) : (s.putBlock y).k = s.k := rfl
@[simp] theorem State.putBlock_ivreg (s : State) (y : Block) : (s.putBlock y).ivreg = s.ivreg := rfl
@[simp] theorem State.putBlock_fb (s : State) (y : Block) : (s.putBlock y).fb = s.fb := rfl
@[simp] theorem State.putBlock_pending (s : State) (y : Block) : (s.putBlock y).pending = s.pending := rfl
@[simp] theorem State.putBlock_observed (s : State) (y : Block) : (s.putBlock y).observed = s.observed := rfl

@[simp] theorem State.loadIv_keybuf (s : State) (v : Block) : (s.loadIv v).keybuf = s.keybuf := rfl
@[simp] theorem State.loadIv_ivbuf (s : State) (v : Block) : (s.loadIv v).ivbuf = s.ivbuf := rfl
@[simp] theorem State.loadIv_din (s : State) (v : Block) : (s.loadIv v).din = s.din := rfl
@[simp] theorem State.loadIv_dout (s : State) (v : Block) : (s.loadIv v).dout = s.dout := rfl
@[simp] theorem State.loadIv_len (s : State) (v : Block) : (s.loadIv v).len = s.len := rfl
@[simp] theorem State.loadIv_err (s : State) (v : Block) : (s.loadIv v).err = s.err := rfl
@[simp] theorem State.loadIv_keyv (s : State) (v : Block) : (s.loadIv v).keyv = s.keyv := rfl
@[simp] theorem State.loadIv_ivv (s : State) (v : Block) : (s.loadIv v).ivv = true := rfl
@[simp] theorem State.loadIv_active (s : State) (v : Block) : (s.loadIv v).active = false := rfl
@[simp] theorem State.loadIv_mode (s : State) (v : Block) : (s.loadIv v).mode = s.mode := rfl
@[simp] theorem State.loadIv_k (s : State) (v : Block) : (s.loadIv v).k = s.k := rfl
@[simp] theorem State.loadIv_ivreg (s : State) (v : Block) : (s.loadIv v).ivreg = v := rfl
@[simp] theorem State.loadIv_fb (s : State) (v : Block) : (s.loadIv v).fb = s.fb := rfl
@[simp] theorem State.loadIv_pending (s : State) (v : Block) : (s.loadIv v).pending = s.pending := rfl
@[simp] theorem State.loadIv_observed (s : State) (v : Block) : (s.loadIv v).observed = s.observed := rfl

@[simp] theorem State.startTransform_keybuf (s : State) (d : Direction) : (s.startTransform d).keybuf = s.keybuf := rfl
@[simp] theorem State.startTransform_ivbuf (s : State) (d : Direction) : (s.startTransform d).ivbuf = s.ivbuf := rfl
@[simp] theorem State.startTransform_din (s : State) (d : Direction) : (s.startTransform d).din = s.din := rfl
@[simp] theorem State.startTransform_dout (s : State) (d : Direction) : (s.startTransform d).dout = s.dout := rfl
@[simp] theorem State.startTransform_len (s : State) (d : Direction) : (s.startTransform d).len = s.len := rfl
@[simp] theorem State.startTransform_err (s : State) (d : Direction) : (s.startTransform d).err = s.err := rfl
@[simp] theorem State.startTransform_keyv (s : State) (d : Direction) : (s.startTransform d).keyv = s.keyv := rfl
@[simp] theorem State.startTransform_ivv (s : State) (d : Direction) : (s.startTransform d).ivv = s.ivv := rfl
@[simp] theorem State.startTransform_active (s : State) (d : Direction) : (s.startTransform d).active = true := rfl
@[simp] theorem State.startTransform_mode (s : State) (d : Direction) : (s.startTransform d).mode = d := rfl
@[simp] theorem State.startTransform_k (s : State) (d : Direction) : (s.startTransform d).k = s.k := rfl
@[simp] theorem State.startTransform_ivreg (s : State) (d : Direction) : (s.startTransform d).ivreg = s.ivreg := rfl
@[simp] theorem State.startTransform_fb (s : State) (d : Direction) : (s.startTransform d).fb = s.ivreg := rfl
@[simp] theorem State.startTransform_pending (s : State) (d : Direction) : (s.startTransform d).pending = s.pending := rfl
@[simp] theorem State.startTransform_observed (s : State) (d : Direction) : (s.startTransform d).observed = s.observed := rfl

@[simp] theorem State.putChunk_keybuf (s : State) (o f : Block) (p : Bool) : (s.putChunk o f p).keybuf = s.keybuf := rfl
@[simp] theorem State.putChunk_ivbuf (s : State) (o f : Block) (p : Bool) : (s.putChunk o f p).ivbuf = s.ivbuf := rfl
@[simp] theorem State.putChunk_din (s : State) (o f : Block) (p : Bool) : (s.putChunk o f p).din = s.din := rfl
@[simp] theorem State.putChunk_dout (s : State) (o f : Block) (p : Bool) : (s.putChunk o f p).dout = o := rfl
@[simp] theorem State.putChunk_len (s : State) (o f : Block) (p : Bool) : (s.putChunk o f p).len = s.len := rfl
@[simp] theorem State.putChunk_err (s : State) (o f : Block) (p : Bool) : (s.putChunk o f p).err = s.err := rfl
@[simp] theorem State.putChunk_keyv (s : State) (o f : Block) (p : Bool) : (s.putChunk o f p).keyv = s.keyv := rfl
@[simp] theorem State.putChunk_ivv (s : State) (o f : Block) (p : Bool) : (s.putChunk o f p).ivv = s.ivv := rfl
@[simp] theorem State.putChunk_active (s : State) (o f : Block) (p : Bool) : (s.putChunk o f p).active = if p then false else s.active := rfl
@[simp] theorem State.putChunk_mode (s : State) (o f : Block) (p : Bool) : (s.putChunk o f p).mode = s.mode := rfl
@[simp] theorem State.putChunk_k (s : State) (o f : Block) (p : Bool) : (s.putChunk o f p).k = s.k := rfl
@[simp] theorem State.putChunk_ivreg (s : State) (o f : Block) (p : Bool) : (s.putChunk o f p).ivreg = s.ivreg := rfl
@[simp] theorem State.putChunk_fb (s : State) (o f : Block) (p : Bool) : (s.putChunk o f p).fb = f := rfl
@[simp] theorem State.putChunk_pending (s : State) (o f : Block) (p : Bool) : (s.putChunk o f p).pending = s.pending := rfl
@[simp] theorem State.putChunk_observed (s : State) (o f : Block) (p : Bool) : (s.putChunk o f p).observed = s.observed := rfl

@[simp] theorem State.observe_keybuf (s : State) (o : Observation) : (s.observe o).keybuf = s.keybuf := rfl
@[simp] theorem State.observe_ivbuf (s : State) (o : Observation) : (s.observe o).ivbuf = s.ivbuf := rfl
@[simp] theorem State.observe_din (s : State) (o : Observation) : (s.observe o).din = s.din := rfl
@[simp] theorem State.observe_dout (s : State) (o : Observation) : (s.observe o).dout = s.dout := rfl
@[simp] theorem State.observe_len (s : State) (o : Observation) : (s.observe o).len = s.len := rfl
@[simp] theorem State.observe_err (s : State) (o : Observation) : (s.observe o).err = s.err := rfl
@[simp] theorem State.observe_keyv (s : State) (o : Observation) : (s.observe o).keyv = s.keyv := rfl
@[simp] theorem State.observe_ivv (s : State) (o : Observation) : (s.observe o).ivv = s.ivv := rfl
@[simp] theorem State.observe_active (s : State) (o : Observation) : (s.observe o).active = s.active := rfl
@[simp] theorem State.observe_mode (s : State) (o : Observation) : (s.observe o).mode = s.mode := rfl
@[simp] theorem State.observe_k (s : State) (o : Observation) : (s.observe o).k = s.k := rfl
@[simp] theorem State.observe_ivreg (s : State) (o : Observation) : (s.observe o).ivreg = s.ivreg := rfl
@[simp] theorem State.observe_fb (s : State) (o : Observation) : (s.observe o).fb = s.fb := rfl
@[simp] theorem State.observe_pending (s : State) (o : Observation) : (s.observe o).pending = s.pending := rfl
@[simp] theorem State.observe_observed (s : State) (o : Observation) : (s.observe o).observed = s.observed ++ [o] := rfl

@[simp] theorem State.setPending_keybuf (s : State) (l : List HostEvent) : (s.setPending l).keybuf = s.keybuf := rfl
@[simp] theorem State.setPending_ivbuf (s : State) (l : List HostEvent) : (s.setPending l).ivbuf = s.ivbuf := rfl
@[simp] theorem State.setPending_din (s : State) (l : List HostEvent) : (s.setPending l).din = s.din := rfl
@[simp] theorem State.setPending_dout (s : State) (l : List HostEvent) : (s.setPending l).dout = s.dout := rfl
@[simp] theorem State.setPending_len (s : State) (l : List HostEvent) : (s.setPending l).len = s.len := rfl
@[simp] theorem State.setPending_err (s : State) (l : List HostEvent) : (s.setPending l).err = s.err := rfl
@[simp] theorem State.setPending_keyv (s : State) (l : List HostEvent) : (s.setPending l).keyv = s.keyv := rfl
@[simp] theorem State.setPending_ivv (s : State) (l : List HostEvent) : (s.setPending l).ivv = s.ivv := rfl
@[simp] theorem State.setPending_active (s : State) (l : List HostEvent) : (s.setPending l).active = s.active := rfl
@[simp] theorem State.setPending_mode (s : State) (l : List HostEvent) : (s.setPending l).mode = s.mode := rfl
@[simp] theorem State.setPending_k (s : State) (l : List HostEvent) : (s.setPending l).k = s.k := rfl
@[simp] theorem State.setPending_ivreg (s : State) (l : List HostEvent) : (s.setPending l).ivreg = s.ivreg := rfl
@[simp] theorem State.setPending_fb (s : State) (l : List HostEvent) : (s.setPending l).fb = s.fb := rfl
@[simp] theorem State.setPending_pending (s : State) (l : List HostEvent) : (s.setPending l).pending = l := rfl
@[simp] theorem State.setPending_observed (s : State) (l : List HostEvent) : (s.setPending l).observed = s.observed := rfl

@[simp] theorem State.resetCore_keybuf (s : State) : s.resetCore.keybuf = zeroKeyBytes := rfl
@[simp] theorem State.resetCore_ivbuf (s : State) : s.resetCore.ivbuf = zeroBlock := rfl
@[simp] theorem State.resetCore_din (s : State) : s.resetCore.din = zeroBlock := rfl
@[simp] theorem State.resetCore_dout (s : State) : s.resetCore.dout = zeroBlock := rfl
@[simp] theorem State.resetCore_len (s : State) : s.resetCore.len = 0#8 := rfl
@[simp] theorem State.resetCore_err (s : State) : s.resetCore.err = .ok := rfl
@[simp] theorem State.resetCore_keyv (s : State) : s.resetCore.keyv = false := rfl
@[simp] theorem State.resetCore_ivv (s : State) : s.resetCore.ivv = false := rfl
@[simp] theorem State.resetCore_active (s : State) : s.resetCore.active = false := rfl
@[simp] theorem State.resetCore_mode (s : State) : s.resetCore.mode = .encrypt := rfl
@[simp] theorem State.resetCore_k (s : State) : s.resetCore.k = zeroKeyFile := rfl
@[simp] theorem State.resetCore_ivreg (s : State) : s.resetCore.ivreg = zeroBlock := rfl
@[simp] theorem State.resetCore_fb (s : State) : s.resetCore.fb = zeroBlock := rfl
@[simp] theorem State.resetCore_pending (s : State) : s.resetCore.pending = s.pending := rfl
@[simp] theorem State.resetCore_observed (s : State) : s.resetCore.observed = s.observed := rfl

/-- The program's observation is a part of what the host has learned, and depends on nothing else (R89). -/
theorem State.programObservation_congr {s t : State} (h : t.observed = s.observed) :
    t.programObservation = s.programObservation := congrArg (List.filter Observation.ofRead) h

@[simp] theorem State.setPending_programObservation (s : State) (l : List HostEvent) :
    (s.setPending l).programObservation = s.programObservation := rfl
@[simp] theorem State.resetCore_programObservation (s : State) : s.resetCore.programObservation = s.programObservation := rfl

/-- What the host learns from a read goes to the end of the program's observation; what it learns from a write does not. -/
@[simp] theorem State.observe_programObservation (s : State) (o : Observation) :
    (s.observe o).programObservation = s.programObservation ++ if o.ofRead then [o] else [] := by
  simp [programObservation, List.filter_cons]

end Sys2Proof.Machine
end

