-- ==== Sys2Proof/Laws/Ops.lean ====
section
/-! SUPPORT. What the shared operations and the five meanings can do, said once each. -/

namespace Sys2Proof.Machine

@[simp] theorem firstFailure_nil : firstFailure [] = none := rfl

@[simp] theorem firstFailure_cons (c : Check) (rest : List Check) :
    firstFailure (c :: rest) = if c.holds then firstFailure rest else some c.code := rfl

/-- A command's failure code is the code of one of its checks. -/
theorem firstFailure_mem {checks : List Check} {code : ErrCode} (h : firstFailure checks = some code) :
    ∃ c ∈ checks, c.holds = false ∧ c.code = code := by
  induction checks with
  | nil => simp at h
  | cons c rest ih =>
    rw [firstFailure_cons] at h
    split at h
    · obtain ⟨d, hd, hc⟩ := ih h
      exact ⟨d, List.mem_cons_of_mem c hd, hc⟩
    · rename_i hc
      exact ⟨c, List.mem_cons_self, by simpa using hc, by simpa using h⟩

/-- A command always completes, in one of two ways (R175). -/
theorem runCommand_eq (checks : List Check) (effect : State → State) (s : State) :
    runCommand checks effect s = .next
      (match firstFailure checks with
       | some code => s.setErr code
       | none => (effect s).setErr .ok) := by
  unfold runCommand
  cases firstFailure checks <;> rfl

/-- What a command can do: fail, writing ERR only, or have its effect. -/
theorem runCommand_cases {checks : List Check} {effect : State → State} {s t : State}
    (h : runCommand checks effect s = .next t) :
    (∃ code, firstFailure checks = some code ∧ t = s.setErr code) ∨
      (firstFailure checks = none ∧ t = (effect s).setErr .ok) := by
  rw [runCommand_eq] at h
  injection h with h
  subst h
  cases firstFailure checks with
  | some code => exact .inl ⟨code, rfl, rfl⟩
  | none => exact .inr ⟨rfl, rfl⟩

/-- LDKEY as one equation. -/
theorem execLdkey_eq (len : Nat) (s : State) : execLdkey len s = .next
    (if len = 32 then (s.loadKey (keyWords s.keybuf)).setErr .ok else s.setErr .invalidKeySize) := by
  by_cases h : len = 32 <;> simp [execLdkey, runCommand_eq, h]

/-- EBLK as one equation. -/
theorem execEblk_eq (len : Nat) (s : State) : execEblk len s = .next
    (if len = 8 then
      (if s.keyv then (s.putBlock (blockTransform Config.sbox s.k s.din)).setErr .ok else s.setErr .keyNotLoaded)
     else s.setErr .invalidBlockSize) := by
  by_cases h : len = 8 <;> cases hk : s.keyv <;> simp [execEblk, runCommand_eq, h, hk]

/-- LDIV as one equation. -/
theorem execLdiv_eq (len : Nat) (s : State) : execLdiv len s = .next
    (if len = 8 then (s.loadIv s.ivbuf).setErr .ok else s.setErr .invalidIVSize) := by
  by_cases h : len = 8 <;> simp [execLdiv, runCommand_eq, h]

/-- CFBINIT as one equation. -/
theorem execCfbinit_eq (dir : Direction) (s : State) : execCfbinit dir s = .next
    (if s.keyv then
      (if s.ivv then (s.startTransform dir).setErr .ok else s.setErr .ivNotLoaded)
     else s.setErr .keyNotLoaded) := by
  cases hk : s.keyv <;> cases hv : s.ivv <;> simp [execCfbinit, runCommand_eq, hk, hv]

/-- CFBCHUNK as one equation. -/
theorem execCfbchunk_eq (len : Nat) (s : State) : execCfbchunk len s = .next
    (if 1 ≤ len ∧ len ≤ 8 then
      (if s.active then (chunkStep Config.sbox len s).setErr .ok else s.setErr .cfbNotActive)
     else s.setErr .invalidBlockSize) := by
  by_cases h : 1 ≤ len ∧ len ≤ 8 <;> cases ha : s.active <;> simp [execCfbchunk, runCommand_eq, h, ha]

/-- The arms of `exec`. -/
@[simp] theorem exec_ldkey (len : Nat) (s : State) : exec (.ldkey len) s = execLdkey len s := rfl
@[simp] theorem exec_eblk (len : Nat) (s : State) : exec (.eblk len) s = execEblk len s := rfl
@[simp] theorem exec_ldiv (len : Nat) (s : State) : exec (.ldiv len) s = execLdiv len s := rfl
@[simp] theorem exec_cfbinit (len : Nat) (dir : Direction) (s : State) :
    exec (.cfbinit len dir) s = execCfbinit dir s := rfl
@[simp] theorem exec_cfbchunk (len : Nat) (s : State) : exec (.cfbchunk len) s = execCfbchunk len s := rfl

/-- What a command can do, for all five at once: fail with a code and write ERR only, or one of five effects. -/
theorem exec_cases {i : Instr} {s t : State} (h : exec i s = .next t) :
    (∃ code, code ≠ .ok ∧ t = s.setErr code) ∨
    (i = .ldkey 32 ∧ t = (s.loadKey (keyWords s.keybuf)).setErr .ok) ∨
    (i = .eblk 8 ∧ s.keyv = true ∧ t = (s.putBlock (blockTransform Config.sbox s.k s.din)).setErr .ok) ∨
    (i = .ldiv 8 ∧ t = (s.loadIv s.ivbuf).setErr .ok) ∨
    (∃ len dir, i = .cfbinit len dir ∧ s.keyv = true ∧ s.ivv = true ∧ t = (s.startTransform dir).setErr .ok) ∨
    (∃ len, i = .cfbchunk len ∧ 1 ≤ len ∧ len ≤ 8 ∧ s.active = true ∧
      t = (chunkStep Config.sbox len s).setErr .ok) := by
  cases i with
  | ldkey len =>
    rw [exec_ldkey, execLdkey_eq] at h
    injection h with h
    split at h
    · subst h; simp_all
    · exact .inl ⟨_, by decide, h.symm⟩
  | eblk len =>
    rw [exec_eblk, execEblk_eq] at h
    injection h with h
    split at h
    · split at h
      · subst h; simp_all
      · exact .inl ⟨_, by decide, h.symm⟩
    · exact .inl ⟨_, by decide, h.symm⟩
  | ldiv len =>
    rw [exec_ldiv, execLdiv_eq] at h
    injection h with h
    split at h
    · subst h; simp_all
    · exact .inl ⟨_, by decide, h.symm⟩
  | cfbinit len dir =>
    rw [exec_cfbinit, execCfbinit_eq] at h
    injection h with h
    split at h
    · split at h
      · exact .inr (.inr (.inr (.inr (.inl ⟨len, dir, rfl, ‹_›, ‹_›, h.symm⟩))))
      · exact .inl ⟨_, by decide, h.symm⟩
    · exact .inl ⟨_, by decide, h.symm⟩
  | cfbchunk len =>
    rw [exec_cfbchunk, execCfbchunk_eq] at h
    injection h with h
    split at h
    · rename_i hl
      split at h
      · exact .inr (.inr (.inr (.inr (.inr ⟨len, rfl, hl.1, hl.2, ‹_›, h.symm⟩))))
      · exact .inl ⟨_, by decide, h.symm⟩
    · exact .inl ⟨_, by decide, h.symm⟩

/-- A command shows the host nothing: what it has learned is unchanged. -/
theorem exec_observed {i : Instr} {s t : State} (h : exec i s = .next t) : t.observed = s.observed := by
  rcases exec_cases h with ⟨_, _, rfl⟩ | ⟨_, rfl⟩ | ⟨_, _, rfl⟩ | ⟨_, rfl⟩ | ⟨_, _, _, _, _, rfl⟩ | ⟨_, _, _, _, _, rfl⟩ <;> rfl

end Sys2Proof.Machine
end

