-- ==== Sys2Proof/Laws/Window.lean ====
section
/-! SUPPORT. What the bus operations, the issue of a command and a host event can do, said once each. -/

namespace Sys2Proof.Machine

/-- What the issue of a command can do: IllegalCommand, or the command the word decodes to. -/
theorem issueCommand_cases {c : Byte} {s t : State} (h : issueCommand c s = .next t) :
    (∃ why, decode (commandWord s.len c) = .illegal why ∧ t = s.setErr .illegalCommand) ∨
      (∃ i, decode (commandWord s.len c) = .command i ∧ exec i s = .next t) := by
  unfold issueCommand at h
  split at h
  · exact .inr ⟨_, ‹_›, h⟩
  · injection h with h
    exact .inl ⟨_, ‹_›, h.symm⟩

/-- What a host write can do when it does not fault: set one byte, or issue a command. -/
theorem hostWrite_cases {off : Offset} {v : Byte} {s t : State} (h : hostWrite off v s = .next t) :
    (∃ j, regAt off = .keybuf j ∧ t = { s with keybuf := s.keybuf.set j.val v }) ∨
    (∃ j, regAt off = .ivbuf j ∧ t = { s with ivbuf := s.ivbuf.set j.val v }) ∨
    (∃ j, regAt off = .din j ∧ t = { s with din := s.din.set j.val v }) ∨
    (regAt off = .len ∧ t = { s with len := v }) ∨
    (regAt off = .cmd ∧ issueCommand v s = .next t) := by
  unfold hostWrite at h
  split at h <;> simp_all

/-- A host write shows the host nothing: what it has learned is unchanged. -/
theorem hostWrite_observed {off : Offset} {v : Byte} {s t : State} (h : hostWrite off v s = .next t) :
    t.observed = s.observed := by
  rcases hostWrite_cases h with ⟨_, _, rfl⟩ | ⟨_, _, rfl⟩ | ⟨_, _, rfl⟩ | ⟨_, rfl⟩ | ⟨_, hi⟩
  · rfl
  · rfl
  · rfl
  · rfl
  · rcases issueCommand_cases hi with ⟨_, _, rfl⟩ | ⟨_, _, hx⟩
    · rfl
    · exact exec_observed hx

/-- What a host read can do: return a byte, or raise BusError at its own offset. -/
theorem hostRead_cases (off : Offset) (s : State) :
    (∃ v, hostRead off s = .ok v) ∨ hostRead off s = .error (.busError off) := by
  unfold hostRead
  split <;> simp

/-- What a host access can do when it does not fault. -/
theorem access_cases {a : Access} {s t : State} (h : access a s = .next t) :
    (∃ off v, a = .read off ∧ hostRead off s = .ok v ∧ t = s.observe (.data v)) ∨
      (∃ off v, a = .write off v ∧ hostWrite off v s = .next t) := by
  cases a with
  | read off =>
    simp only [access] at h
    split at h
    · injection h with h
      exact .inl ⟨off, _, rfl, ‹_›, h.symm⟩
    · cases h
  | write off v => exact .inr ⟨off, v, rfl, h⟩

/-- What a host event can do: reset, an access, or a bus fault that the host learns of. -/
theorem serve_cases {e : HostEvent} {s t : State} (h : serve e s = .next t) :
    (e = .reset ∧ t = s.resetCore) ∨
    (∃ a, e = .access a ∧ access a s = .next t) ∨
    (∃ a off, e = .access a ∧ access a s = .fault (.busError off) ∧ t = s.observe (.busError a)) := by
  cases e with
  | reset =>
    injection h with h
    exact .inl ⟨rfl, h.symm⟩
  | access a =>
    simp only [serve] at h
    split at h
    · injection h with h
      subst h
      exact .inr (.inl ⟨a, rfl, ‹_›⟩)
    · rename_i f hf
      injection h with h
      obtain ⟨off⟩ := f
      exact .inr (.inr ⟨a, off, rfl, hf, h.symm⟩)
    · cases h

/-- What a step can do: idle, or serve the next host event. -/
theorem step_cases {s t : State} (h : step s = .next t) :
    (s.pending = [] ∧ t = s) ∨
      (∃ e rest, s.pending = e :: rest ∧ serve e (s.setPending rest) = .next t) := by
  unfold step serveNext at h
  split at h
  · injection h with h
    exact .inl ⟨‹_›, h.symm⟩
  · exact .inr ⟨_, _, ‹_›, h⟩

/-- CMD is at offset 0x38 and nowhere else (R52). -/
theorem regAt_eq_cmd {off : Offset} : regAt off = .cmd ↔ off = 0x38#6 := by
  revert off
  decide

/-- LEN is at offset 0x39 and nowhere else (R52). -/
theorem regAt_eq_len {off : Offset} : regAt off = .len ↔ off = 0x39#6 := by
  revert off
  decide

/-- Each register has one offset (R52): two offsets with the same register, other than the unmapped ones, are equal. -/
theorem regAt_injective {a b : Offset} (h : regAt a = regAt b) (hm : regAt a ≠ .unmapped) : a = b := by
  revert a b
  decide +kernel

end Sys2Proof.Machine
end

