-- ==== Sys2Proof/Laws/Step.lean ====
section
/-! SUPPORT. Everything one step can do, and runs of steps. -/

namespace Sys2Proof.Machine

open Sys2Proof.Laws

/-- What one host event does to a state from which it has been taken off: a fault or a read leaves only an observation, a
host write sets one byte, reset and the commands do what their rules say. -/
theorem step_spec {s t : State} (h : step s = .next t) :
    (s.pending = [] ∧ t = s) ∨
    (∃ rest, s.pending = .reset :: rest ∧ t = (s.setPending rest).resetCore) ∨
    (∃ a rest o, s.pending = .access a :: rest ∧ t = (s.setPending rest).observe o) ∨
    (∃ off v rest, s.pending = .access (.write off v) :: rest ∧ off ≠ 0x38#6 ∧
      ((∃ j : Fin 32, t = { s.setPending rest with keybuf := s.keybuf.set j.val v }) ∨
       (∃ j : Fin 8, t = { s.setPending rest with ivbuf := s.ivbuf.set j.val v }) ∨
       (∃ j : Fin 8, t = { s.setPending rest with din := s.din.set j.val v }) ∨
       t = { s.setPending rest with len := v })) ∨
    (∃ c rest, s.pending = .access (.write 0x38#6 c) :: rest ∧
      ((∃ e, e ≠ .ok ∧ t = (s.setPending rest).setErr e) ∨
       (c = 0x01#8 ∧ s.len = 32#8 ∧ t = ((s.setPending rest).loadKey (keyWords s.keybuf)).setErr .ok) ∨
       (c = 0x02#8 ∧ s.len = 8#8 ∧ s.keyv = true ∧
         t = ((s.setPending rest).putBlock (blockTransform Config.sbox s.k s.din)).setErr .ok) ∨
       (c = 0x03#8 ∧ s.len = 8#8 ∧ t = ((s.setPending rest).loadIv s.ivbuf).setErr .ok) ∨
       (∃ d, ((c = 0x04#8 ∧ d = .encrypt) ∨ (c = 0x14#8 ∧ d = .decrypt)) ∧ s.keyv = true ∧ s.ivv = true ∧
         t = ((s.setPending rest).startTransform d).setErr .ok) ∨
       (c = 0x05#8 ∧ 1 ≤ s.len.toNat ∧ s.len.toNat ≤ 8 ∧ s.active = true ∧
         t = (chunkStep Config.sbox s.len.toNat (s.setPending rest)).setErr .ok))) := by
  rcases step_cases h with ⟨h1, rfl⟩ | ⟨e, rest, hp, h⟩
  · exact .inl ⟨h1, rfl⟩
  right
  rcases serve_cases h with ⟨rfl, rfl⟩ | ⟨a, rfl, hacc⟩ | ⟨a, off, rfl, _, rfl⟩
  · exact .inl ⟨rest, hp, rfl⟩
  · rcases access_cases hacc with ⟨off, v, rfl, _, rfl⟩ | ⟨off, v, rfl, hw⟩
    · exact .inr (.inl ⟨_, rest, _, hp, rfl⟩)
    right; right
    have notCmd : regAt off ≠ .cmd → off ≠ 0x38#6 := fun hr e => hr (regAt_eq_cmd.mpr e)
    rcases hostWrite_cases hw with ⟨j, hr, rfl⟩ | ⟨j, hr, rfl⟩ | ⟨j, hr, rfl⟩ | ⟨hr, rfl⟩ | ⟨hr, hi⟩
    · exact .inl ⟨off, v, rest, hp, notCmd (by simp [hr]), .inl ⟨j, rfl⟩⟩
    · exact .inl ⟨off, v, rest, hp, notCmd (by simp [hr]), .inr (.inl ⟨j, rfl⟩)⟩
    · exact .inl ⟨off, v, rest, hp, notCmd (by simp [hr]), .inr (.inr (.inl ⟨j, rfl⟩))⟩
    · exact .inl ⟨off, v, rest, hp, notCmd (by simp [hr]), .inr (.inr (.inr rfl))⟩
    right
    rw [regAt_eq_cmd] at hr
    subst hr
    refine ⟨v, rest, hp, ?_⟩
    have len32 : s.len.toNat = 32 → s.len = 32#8 := fun h => BitVec.eq_of_toNat_eq h
    have len8 : s.len.toNat = 8 → s.len = 8#8 := fun h => BitVec.eq_of_toNat_eq h
    rcases issueCommand_cases hi with ⟨_, _, rfl⟩ | ⟨i, hd, hx⟩
    · exact .inl ⟨_, by decide, rfl⟩
    rw [commandWord_eq] at hd
    rcases exec_cases hx with
      ⟨c, hc, rfl⟩ | ⟨rfl, rfl⟩ | ⟨rfl, hk, rfl⟩ | ⟨rfl, rfl⟩ | ⟨_, dir, rfl, hk, hv, rfl⟩ | ⟨n, rfl, h1, h8, ha, rfl⟩
    · exact .inl ⟨_, hc, rfl⟩
    all_goals
      rcases decode_append_cases (s.setPending rest).len v with
        ⟨rfl, hd'⟩ | ⟨rfl, hd'⟩ | ⟨rfl, hd'⟩ | ⟨rfl, hd'⟩ | ⟨rfl, hd'⟩ | ⟨rfl, hd'⟩ | ⟨_, _, hd'⟩ <;>
      rw [hd'] at hd <;> simp only [Decoded.command.injEq, reduceCtorEq] at hd <;>
      simp only [Instr.ldkey.injEq, Instr.eblk.injEq, Instr.ldiv.injEq, Instr.cfbinit.injEq, Instr.cfbchunk.injEq,
        State.setPending_len] at hd
    · exact .inr (.inl ⟨rfl, len32 hd, rfl⟩)
    · exact .inr (.inr (.inl ⟨rfl, len8 hd, hk, rfl⟩))
    · exact .inr (.inr (.inr (.inl ⟨rfl, len8 hd, rfl⟩)))
    · obtain ⟨_, rfl⟩ := hd
      exact .inr (.inr (.inr (.inr (.inl ⟨_, .inl ⟨rfl, rfl⟩, hk, hv, rfl⟩))))
    · obtain ⟨_, rfl⟩ := hd
      exact .inr (.inr (.inr (.inr (.inl ⟨_, .inr ⟨rfl, rfl⟩, hk, hv, rfl⟩))))
    · subst hd
      exact .inr (.inr (.inr (.inr (.inr ⟨rfl, h1, h8, ha, rfl⟩))))
  · exact .inr (.inl ⟨_, rest, _, hp, rfl⟩)

/-- One step of a run, for any machine: the run goes on from the next state. -/
theorem run_of_next {M : Host.Core} {n : Nat} {s u : M.State} (h : M.step s = .next u) : M.run (n + 1) s = M.run n u := by
  rw [Host.Core.run, h]

/-- A run that gets past its first step, for any machine. -/
theorem step_of_run {M : Host.Core} {n : Nat} {s t : M.State} (h : M.run (n + 1) s = .next t) :
    ∃ u, M.step s = .next u ∧ M.run n u = .next t := by
  rw [Host.Core.run] at h
  split at h
  · exact ⟨_, ‹_›, h⟩
  · cases h
  · cases h

/-- A run of no steps stays where it is. -/
theorem reaches_zero {s t : State} : Reaches 0 s t ↔ s = t :=
  ⟨fun h => by injection h, fun h => by rw [h]; rfl⟩

/-- A run of one step more is a step and then a run. -/
theorem reaches_succ {n : Nat} {s t : State} : Reaches (n + 1) s t ↔ ∃ u, step s = .next u ∧ Reaches n u t :=
  ⟨fun h => step_of_run (M := Sys2Proof.core) h,
   fun ⟨_, hs, hr⟩ => (run_of_next (M := Sys2Proof.core) hs).trans hr⟩

/-- Two runs one after the other are one run. -/
theorem reaches_add {m n : Nat} {s t u : State} (h : Reaches m s t) (h' : Reaches n t u) : Reaches (m + n) s u := by
  induction m generalizing s with
  | zero => rw [reaches_zero] at h; subst h; simpa using h'
  | succ m ih =>
    obtain ⟨v, hs, hr⟩ := reaches_succ.mp h
    rw [Nat.succ_add]
    exact reaches_succ.mpr ⟨v, hs, ih hr⟩

/-- What every step keeps holds along every run. -/
theorem reaches_induction {P : State → Prop} (hstep : ∀ s t, P s → step s = .next t → P t) {n : Nat} {s t : State}
    (hs : P s) (h : Reaches n s t) : P t := by
  induction n generalizing s with
  | zero => rw [reaches_zero] at h; exact h ▸ hs
  | succ n ih =>
    obtain ⟨u, hu, hr⟩ := reaches_succ.mp h
    exact ih (hstep s u hs hu) hr

end Sys2Proof.Machine
end

