-- ==== Sys2Proof/Tests/Slice0.lean ====
section
/-! SUPPORT. Tests: command words written out from the opcode map, ill-formed terms refused, the worked values of
95_test_vectors.md, one or two single steps for each command, program text, and for every statement with hypotheses a
witness that meets them. Every expected value is the spec's own (its place is named) or follows from the rule named. -/

namespace Sys2Proof.Tests

open Sys2Proof Sys2Proof.Machine

/-! ### Helpers -/

/-- The next state of an outcome. -/
def nextOf (o : Host.Outcome State Fault Refusal) : Option State :=
  match o with
  | .next t => some t
  | .fault _ => none
  | .refused _ => none

theorem eq_next_of_nextOf {o : Host.Outcome State Fault Refusal} {t : State} (h : nextOf o = some t) : o = .next t := by
  cases o with
  | next s => exact congrArg _ (Option.some.inj h)
  | fault f => cases h
  | refused r => cases h

/-- Right after reset, with the LEN byte and the next host event given. -/
def atReset (len : Byte) (e : HostEvent) : State := { State.reset with len := len, pending := [e] }

/-- A CMD write. -/
def cmdWrite (c : Byte) : HostEvent := .access (.write 0x38#6 c)

/-- 32 bytes of 0xAA, the key of 95_test_vectors.md sections 2.8, 2.10 to 2.12. -/
def keyAA : KeyBytes := Vector.replicate 32 0xAA#8

/-- 8 bytes of 0xBB, the IV of 95_test_vectors.md sections 2.10 to 2.12. -/
def ivBB : Block := Vector.replicate 8 0xBB#8

/-- A state with a key, an IV and no transform in progress. -/
def loaded : State :=
  { State.reset with k := keyWords keyAA, keyv := true, ivreg := ivBB, ivv := true, len := 8#8 }

/-- A transform in progress. -/
def running : State := { loaded with fb := ivBB, active := true, mode := .decrypt }

/-- Bytes 00 01 02 ... of length `n`. -/
def countingBytes (n : Nat) : List Byte := (List.range n).map (BitVec.ofNat 8 ·)

/-! ### Decoding: words written out from 30_encoding.md rule R84 -/

theorem test_decode_ldkey : decode 0b00100000_000_0_0001#16 = .command (.ldkey 32) := by decide
theorem test_decode_eblk : decode 0b00001000_000_0_0010#16 = .command (.eblk 8) := by decide
theorem test_decode_ldiv : decode 0b00001000_000_0_0011#16 = .command (.ldiv 8) := by decide
theorem test_decode_cfbinit_encrypt : decode 0b00001000_000_0_0100#16 = .command (.cfbinit 8 .encrypt) := by decide
theorem test_decode_cfbinit_decrypt : decode 0b00001000_000_1_0100#16 = .command (.cfbinit 8 .decrypt) := by decide
theorem test_decode_cfbchunk : decode 0b00000010_000_0_0101#16 = .command (.cfbchunk 2) := by decide
theorem test_decode_ldkey_dir : decode 0x2011#16 = .illegal .dirNotAllowed := by decide
theorem test_decode_bit5 : decode 0x2021#16 = .illegal .reservedBits := by decide
theorem test_decode_bit7 : decode 0x0882#16 = .illegal .reservedBits := by decide
theorem test_decode_op0 : decode 0x0800#16 = .illegal .unknownOp := by decide
theorem test_decode_op6 : decode 0x0806#16 = .illegal .unknownOp := by decide
theorem test_decode_op15 : decode 0x080F#16 = .illegal .unknownOp := by decide

/-- The words of 95_test_vectors.md section 3, P1 and P2. -/
theorem test_encode_words : encode (.ldkey 32) = 0x2001#16 ∧ encode (.eblk 8) = 0x0802#16 ∧ encode (.ldiv 8) = 0x0803#16 ∧
    encode (.cfbinit 8 .encrypt) = 0x0804#16 ∧ encode (.cfbinit 8 .decrypt) = 0x0814#16 ∧
    encode (.cfbchunk 2) = 0x0205#16 := by decide

theorem test_table_words : decodeTableWord 16 0x2001 = some (.ldkey 32) ∧ decodeTableWord 8 0x14 = some (.cfbinit 0 .decrypt) ∧
    decodeTableWord 16 0x0006 = none := by decide

/-! ### Well-formedness: a length of more than 8 bits is refused; the legal lengths of R84 -/

theorem smoke_ldkey : ¬ (Instr.ldkey 256).WellFormed := by decide
theorem smoke_eblk : ¬ (Instr.eblk 256).WellFormed := by decide
theorem smoke_ldiv : ¬ (Instr.ldiv 256).WellFormed := by decide
theorem smoke_cfbinit : ¬ (Instr.cfbinit 256 .decrypt).WellFormed := by decide
theorem smoke_cfbchunk : ¬ (Instr.cfbchunk 256).WellFormed := by decide
theorem smoke_legal_length : (Instr.ldkey 31).LegalLength = false ∧ (Instr.eblk 7).LegalLength = false ∧
    (Instr.ldiv 9).LegalLength = false ∧ (Instr.cfbinit 99 .encrypt).LegalLength = true ∧
    (Instr.cfbchunk 0).LegalLength = false ∧ (Instr.cfbchunk 9).LegalLength = false := by decide
theorem smoke_stmt : (Stmt.wrdin (countingBytes 9)).WellFormed = false ∧ (Stmt.rddout 9).WellFormed = false := by decide

/-! ### The block unit's functions: 95_test_vectors.md sections 2.1 to 2.9 -/

/-- Section 2.1, row 2: the key bytes 00 to 1f. -/
theorem test_key_split : keyWords (Vector.ofFn fun j : Fin 32 => BitVec.ofNat 8 j.val) =
    #v[0x00010203#32, 0x04050607#32, 0x08090a0b#32, 0x0c0d0e0f#32, 0x10111213#32, 0x14151617#32, 0x18191a1b#32,
      0x1c1d1e1f#32] := by decide

/-- Section 2.2, corner cases. -/
theorem test_subkey_corners : subkeyIndex 23 = 7 ∧ subkeyIndex 24 = 7 ∧ subkeyIndex 31 = 0 := by decide

/-- Section 2.3. -/
theorem test_add32 : add32 0x00000001#32 0xffffffff#32 = 0#32 ∧ add32 0x80000000#32 0x80000000#32 = 0#32 ∧
    add32 0xfedcba98#32 0x87654321#32 = 0x8641fdb9#32 := by decide

/-- Section 2.4, SBOX_MAGMA. -/
theorem test_subst : subst Config.sboxMagma 0x00000000#32 = 0x1857cb6c#32 ∧
    subst Config.sboxMagma 0x12345678#32 = 0x72684ace#32 ∧ subst Config.sboxMagma 0xfdb97531#32 = 0x2a196f34#32 := by decide

/-- Section 2.5. -/
theorem test_rotl : rotl32 0x80000000#32 11 = 0x00000400#32 ∧ rotl32 0x00200000#32 11 = 0x00000001#32 ∧
    rotl32 0x12345678#32 11 = 0xa2b3c091#32 := by decide

/-- Section 2.6. -/
theorem test_round_function : roundF Config.sboxId 0xaaaaaaaa#32 0xbbbbbbbb#32 = 0x33332b33#32 ∧
    roundF Config.sboxMagma 0x87654321#32 0xfedcba98#32 = 0xfdcbc20c#32 := by decide

/-- Section 2.8, rounds 0 and 5; section 2.7, rows 2 and 5, SBOX_ID; section 2.9, SBOX_MAGMA. -/
theorem test_block_transform :
    halvesAfter Config.sboxId (keyWords keyAA) zeroBlock 1 (by omega) = ⟨0x00000000#32, 0x55555555#32⟩ ∧
    halvesAfter Config.sboxId (keyWords keyAA) zeroBlock 6 (by omega) = ⟨0xaaaabaa4#32, 0x02c0d800#32⟩ ∧
    blockTransform Config.sboxId (keyWords keyAA) zeroBlock =
      #v[0x27#8, 0xdc#8, 0x12#8, 0x89#8, 0x4f#8, 0x67#8, 0x64#8, 0xcf#8] ∧
    blockTransform Config.sboxId (keyWords (Vector.ofFn fun j : Fin 32 => BitVec.ofNat 8 j.val))
      #v[0x00#8, 0x01#8, 0x02#8, 0x03#8, 0x04#8, 0x05#8, 0x06#8, 0x07#8] =
      #v[0x64#8, 0x98#8, 0xaa#8, 0x55#8, 0x59#8, 0x04#8, 0x34#8, 0xee#8] ∧
    blockTransform Config.sboxMagma
      #v[0xffeeddcc#32, 0xbbaa9988#32, 0x77665544#32, 0x33221100#32, 0xf0f1f2f3#32, 0xf4f5f6f7#32, 0xf8f9fafb#32, 0xfcfdfeff#32]
      #v[0xfe#8, 0xdc#8, 0xba#8, 0x98#8, 0x76#8, 0x54#8, 0x32#8, 0x10#8] =
      #v[0x4e#8, 0xe9#8, 0x01#8, 0xe5#8, 0xc2#8, 0xd8#8, 0xca#8, 0x3d#8] := by decide +kernel

/-! ### The CFB engine: 95_test_vectors.md sections 2.10 and 2.12 -/

/-- Section 2.10: row N = 10, SBOX_MAGMA, and the direction corner case, SBOX_ID. -/
theorem test_streams :
    cfbTransform Config.sboxMagma (keyWords keyAA) ivBB .encrypt (countingBytes 10) =
      [0xe2#8, 0x88#8, 0x49#8, 0x2a#8, 0x77#8, 0xb0#8, 0x90#8, 0x51#8, 0x6d#8, 0x59#8] ∧
    cfbTransform Config.sboxId (keyWords keyAA) ivBB .decrypt (countingBytes 17) =
      [0x0c#8, 0xe2#8, 0x9f#8, 0x73#8, 0x04#8, 0x1e#8, 0x29#8, 0x23#8, 0x1c#8, 0x85#8, 0xb6#8, 0x4a#8, 0x58#8, 0xc2#8, 0xc5#8,
        0xbb#8, 0xe1#8] := by decide +kernel

/-- Section 2.12, SBOX_MAGMA: chunk 0 of the encryption (FB takes the output, ACTIVE stays) and chunk 1 of the decryption (DOUT
padded, FB takes the padded input, ACTIVE ends, MODE stays). -/
theorem test_chunks :
    (let s : State := { running with mode := .encrypt, din := #v[0x00#8, 0x01#8, 0x02#8, 0x03#8, 0x04#8, 0x05#8, 0x06#8, 0x07#8] }
     let t := chunkStep Config.sboxMagma 8 s
     t.dout = #v[0xe2#8, 0x88#8, 0x49#8, 0x2a#8, 0x77#8, 0xb0#8, 0x90#8, 0x51#8] ∧ t.fb = t.dout ∧ t.active = true) ∧
    (let s : State := { running with
       fb := #v[0xe2#8, 0x88#8, 0x49#8, 0x2a#8, 0x77#8, 0xb0#8, 0x90#8, 0x51#8],
       din := #v[0x6d#8, 0x59#8, 0x49#8, 0x2a#8, 0x77#8, 0xb0#8, 0x90#8, 0x51#8] }
     let t := chunkStep Config.sboxMagma 2 s
     t.dout = #v[0x08#8, 0x09#8, 0x00#8, 0x00#8, 0x00#8, 0x00#8, 0x00#8, 0x00#8] ∧
       t.fb = #v[0x6d#8, 0x59#8, 0x00#8, 0x00#8, 0x00#8, 0x00#8, 0x00#8, 0x00#8] ∧ t.active = false ∧ t.mode = .decrypt) := by
  decide +kernel

/-! ### Single steps: 95_test_vectors.md sections 2.13 to 2.15 -/

/-- STATUS and ERR after one step. -/
def statusAndErr (s : State) : Option (Byte × Byte) := (nextOf (step s)).map fun t => (statusByte t, errByte t.err)

theorem test_ldkey_step : statusAndErr (atReset 32#8 (cmdWrite 0x01#8)) = some (0x01#8, 0x00#8) := by decide
theorem test_ldkey_wrong_length : statusAndErr (atReset 31#8 (cmdWrite 0x01#8)) = some (0x00#8, 0x01#8) ∧
    statusAndErr (atReset 33#8 (cmdWrite 0x01#8)) = some (0x00#8, 0x01#8) := by decide
theorem test_eblk_errors : statusAndErr (atReset 8#8 (cmdWrite 0x02#8)) = some (0x00#8, 0x05#8) ∧
    statusAndErr (atReset 7#8 (cmdWrite 0x02#8)) = some (0x00#8, 0x03#8) := by decide
theorem test_eblk_keeps_transform : statusAndErr { running with pending := [cmdWrite 0x02#8] } = some (0x0F#8, 0x00#8) := by decide
theorem test_ldiv_step : statusAndErr { running with pending := [cmdWrite 0x03#8] } = some (0x0B#8, 0x00#8) := by decide
theorem test_ldiv_wrong_length : statusAndErr (atReset 7#8 (cmdWrite 0x03#8)) = some (0x00#8, 0x02#8) := by decide
theorem test_cfbinit_step : statusAndErr { loaded with len := 99#8, pending := [cmdWrite 0x04#8] } = some (0x07#8, 0x00#8) ∧
    statusAndErr { loaded with pending := [cmdWrite 0x14#8] } = some (0x0F#8, 0x00#8) := by decide
theorem test_cfbinit_errors : statusAndErr (atReset 0#8 (cmdWrite 0x04#8)) = some (0x00#8, 0x05#8) ∧
    statusAndErr { loaded with ivv := false, pending := [cmdWrite 0x14#8] } = some (0x01#8, 0x06#8) := by decide
theorem test_cfbchunk_step : statusAndErr { running with len := 3#8, pending := [cmdWrite 0x05#8] } = some (0x0B#8, 0x00#8) ∧
    statusAndErr { running with pending := [cmdWrite 0x05#8] } = some (0x0F#8, 0x00#8) := by decide
theorem test_cfbchunk_errors : statusAndErr (atReset 8#8 (cmdWrite 0x05#8)) = some (0x00#8, 0x07#8) ∧
    statusAndErr (atReset 0#8 (cmdWrite 0x05#8)) = some (0x00#8, 0x03#8) ∧
    statusAndErr { running with len := 9#8, pending := [cmdWrite 0x05#8] } = some (0x0F#8, 0x03#8) := by decide
theorem test_illegal_commands : statusAndErr (atReset 8#8 (cmdWrite 0x00#8)) = some (0x00#8, 0x04#8) ∧
    statusAndErr { running with pending := [cmdWrite 0x15#8] } = some (0x0F#8, 0x04#8) := by decide

/-- The data of one access: 95_test_vectors.md section 2.14. -/
theorem test_reads : ∀ off : Fin 64, (match hostRead (BitVec.ofFin off) loaded with | .ok _ => true | .error _ => false) =
    decide ((0x20 ≤ off.val ∧ off.val ≤ 0x37) ∨ (0x39 ≤ off.val ∧ off.val ≤ 0x3B)) := by decide

theorem test_writes : ∀ off : Fin 64,
    (match hostWrite (BitVec.ofFin off) 0x55#8 loaded with | .fault _ => false | .next _ => true | .refused _ => true) =
      decide (off.val ≤ 0x2F ∨ off.val = 0x38 ∨ off.val = 0x39) := by decide

theorem test_write_then_read : (nextOf (hostWrite 0x2B#6 0x55#8 State.reset)).map (fun t => (t.din[3], t.din[4])) =
    some (0x55#8, 0x00#8) := by decide

/-- P4's bus faults: the host learns of each and goes on. -/
theorem test_bus_fault_step :
    nextOf (step { loaded with pending := [.access (.read 0x3C#6), .reset] }) =
      some { loaded with pending := [.reset], observed := [.busError (.read 0x3C#6)] } := by decide

/-- R89: P4's `rd KEYBUF+0` records its BusError for the program, its `wr DOUT+0, 0x55` records nothing, a plain read its byte. -/
theorem test_program_observation :
    ((nextOf (step { loaded with pending := [.access (.read 0x00#6)] })).map (·.programObservation) =
      some [.busError (.read 0x00#6)]) ∧
    ((nextOf (step { loaded with pending := [.access (.write 0x30#6 0x55#8)] })).map (·.programObservation) = some []) ∧
    ((nextOf (step { loaded with pending := [.access (.read 0x39#6)] })).map (·.programObservation) = some [.data 0x08#8]) := by
  decide

theorem test_reset_step : nextOf (step { running with pending := [.reset], observed := [.data 1#8] }) =
    some { State.reset with observed := [.data 1#8] } := by decide

theorem test_fetch_word : statusAndErr (State.reset.withFetchWord 16 0x2001) = some (0x01#8, 0x00#8) := by decide

/-! ### Program text: lines of 95_test_vectors.md section 3 -/

theorem test_read_line_wr : readLine "wr CMD, 0x15         ; CFBCHUNK with DIR=1: IllegalCommand".toList =
    some [.wr 0x38#6 0x15#8] := by decide
theorem test_read_line_rd : readLine "rd KEYBUF+31".toList = some [.rd 0x1F#6] ∧
    readLine "wr DOUT+0, 0x55      ; BusError (read-only)".toList = some [.wr 0x30#6 0x55#8] := by decide
theorem test_read_line_len : readLine "ldkey len=31         ; InvalidKeySize".toList = some [.ldkey 31#8] ∧
    readLine "ldkey".toList = some [.ldkey 32#8] ∧ readLine "cfbinit.d".toList = some [.cfbinit .decrypt] := by decide
theorem test_read_line_wrdin : readLine "wrdin 0x41,0x42,0x43".toList = some [.wrdin [0x41#8, 0x42#8, 0x43#8]] := by decide
theorem test_read_line_refused : readLine "wr DIN+8, 1".toList = none ∧ readLine "wr 0x40, 1".toList = none ∧
    readLine "ldkey len=256".toList = none ∧ readLine "nop".toList = none ∧ readLine "  ; a comment".toList = some [] := by
  decide

/-- The start of P4 as R91 writes it. -/
theorem test_render : (readProgram "eblk\nrdstat\nldkey len=31\nwr CMD, 0x15".toList).map
      (fun p => (renderProgram 0x00#8 (expandProgram p)).map String.ofList) =
    some ["W 39 08", "W 38 02 [CW=0802]", "R 3a", "R 3b", "W 39 1f", "W 38 01 [CW=1f01]", "W 38 15 [CW=1f15]"] := by decide

/-- R51: a wider bus transaction as byte accesses in increasing offset order. -/
theorem test_wide_write : writeBytes 0x20 [0xAA#8, 0xBB#8] = [.write 0x20#6 0xAA#8, .write 0x21#6 0xBB#8] ∧
    readBytes 0x30 2 = [.read 0x30#6, .read 0x31#6] := by decide

/-! ### Witnesses: for every statement with hypotheses, values that meet them together -/

theorem witness_DecodeOfEncode : (Instr.cfbinit 255 .decrypt).WellFormed ∧ (Instr.ldkey 0).WellFormed := by decide

theorem witness_EncodeOfDecode : decode 0xFF14#16 = .command (.cfbinit 255 .decrypt) := by decide

theorem witness_IllegalWords :
    (∃ why, decode 0xFF15#16 = .illegal why) ∧ (∃ i, decode (commandWord 0#8 0x14#8) = .command i) ∧
      (0x15#8 ∉ [0x01#8, 0x02#8, 0x03#8, 0x04#8, 0x14#8, 0x05#8]) ∧
      (0x00#8 ∉ [0x01#8, 0x02#8, 0x03#8, 0x04#8, 0x14#8, 0x05#8]) :=
  ⟨⟨.dirNotAllowed, by decide⟩, ⟨.cfbinit 0 .decrypt, by decide⟩, by decide, by decide⟩

theorem witness_DecodeFollowsMasks : 0x2001#16 &&& 0x00FF#16 = 0x0001#16 ∧ 0x0802#16 &&& 0x00FF#16 = 0x0002#16 ∧
    0x0803#16 &&& 0x00FF#16 = 0x0003#16 ∧ 0x0014#16 &&& 0x00EF#16 = 0x0004#16 ∧ 0x0105#16 &&& 0x00FF#16 = 0x0005#16 := by decide

theorem witness_KeySchedule : (23 : Fin 32).val < 24 ∧ 24 ≤ (24 : Fin 32).val := by decide

/-- The bounds of KeyWordsAreBigEndian, RotationByEleven and FeistelRoundSwaps at the ends of their ranges. -/
theorem witness_index_bounds : (0 < 8 ∧ 7 < 8) ∧ (0 < 32 ∧ 31 < 32) ∧ (0 + 1 ≤ 32 ∧ 31 + 1 ≤ 32) := by decide

theorem witness_TransformIsInjective :
    blockTransform Config.sboxId zeroKeyFile zeroBlock = blockTransform Config.sboxId zeroKeyFile zeroBlock := rfl

theorem witness_LdkeyResult : (31 : Nat) ≠ 32 ∧ (33 : Nat) ≠ 32 ∧ (0 : Nat) ≠ 32 ∧ (255 : Nat) ≠ 32 := by decide

theorem witness_EblkResult : loaded.keyv = true ∧ ((7 : Nat) ≠ 8 ∧ (9 : Nat) ≠ 8) ∧ State.reset.keyv = false := by decide

theorem witness_LdivResult : (7 : Nat) ≠ 8 ∧ (9 : Nat) ≠ 8 := by decide

theorem witness_CfbinitResult : (loaded.keyv = true ∧ loaded.ivv = true) ∧ State.reset.keyv = false ∧
    (({ loaded with ivv := false } : State).keyv = true ∧ ({ loaded with ivv := false } : State).ivv = false) := by decide

/-- The hypotheses of CfbchunkResult, clause by clause; the first line also meets those of ChunkOutputIgnoresMode and
OutputPadding. -/
theorem witness_CfbchunkResult :
    (1 ≤ 1 ∧ 1 ≤ 8 ∧ running.active = true) ∧ (1 ≤ 8 ∧ 8 ≤ 8 ∧ running.active = true) ∧
    (((0 : Nat) = 0 ∨ 8 < 0) ∧ ((9 : Nat) = 0 ∨ 8 < 9)) ∧
    (1 ≤ 1 ∧ 1 ≤ 8 ∧ loaded.active = false) ∧ (1 ≤ 8 ∧ 8 ≤ 8 ∧ loaded.active = false) := by decide

theorem witness_FailureWritesOnlyErr :
    issueCommand 0x02#8 State.reset = .next (State.reset.setErr .invalidBlockSize) ∧
      (State.reset.setErr .invalidBlockSize).err ≠ .ok := ⟨rfl, by decide⟩

/-- An exec that answers a next state with result code OK, as a check of its outcome. -/
def succeeds (o : Host.Outcome State Fault Refusal) : Bool :=
  match nextOf o with
  | some t => t.err = .ok
  | none => false

theorem witness_WriteMatrix : succeeds (exec (.ldkey 32) State.reset) ∧ succeeds (exec (.eblk 8) loaded) ∧
    succeeds (exec (.ldiv 8) State.reset) ∧ succeeds (exec (.cfbinit 0 .decrypt) loaded) ∧
    succeeds (exec (.cfbchunk 7) running) ∧ succeeds (exec (.cfbchunk 8) running) ∧
    succeeds (exec (.ldkey 31) State.reset) = false := by decide

theorem witness_CommandWindowFrame :
    issueCommand 0x03#8 loaded = .next ((loaded.loadIv loaded.ivbuf).setErr .ok) ∧ (0x03#8 ≠ 0x02#8 ∧ 0x03#8 ≠ 0x05#8) ∧
      ((0x2F#6).toNat < 0x30 ∧ 0x3C ≤ (0x3C#6).toNat) ∧ (0x30 ≤ (0x30#6).toNat ∧ (0x37#6).toNat < 0x38) := ⟨rfl, by decide⟩

theorem witness_ChunkIgnoresUnusedInput : (1 ≤ 7 ∧ 7 ≤ 8 ∧ running.active = true) ∧ running.din.set 7 0xFF#8 ≠ running.din ∧
    ∀ (j : Nat) (h : j < 8), j < 7 → (running.din.set 7 0xFF#8)[j] = running.din[j] := by
  refine ⟨by decide, by decide, fun j h hj => ?_⟩
  rw [Vector.getElem_set_ne _ _ (by omega)]

theorem witness_PartialChunkEndsTransform : (1 ≤ 7 ∧ 7 < 8 ∧ running.active = true) ∧
    (1 ≤ 8 ∧ 8 ≤ 8 ∧ loaded.active = (chunkStep Config.sbox 7 running).active) := by decide

theorem witness_FullChunksAlone : (countingBytes 8).length % 8 = 0 ∧ (countingBytes 0).length % 8 = 0 := by decide

theorem witness_DecryptKeystream : (7 < 8 ∧ 8 * (0 + 1) + 7 < (countingBytes 16).length) ∧
    (0 < 8 ∧ 8 * (1 + 1) + 0 < (countingBytes 17).length) := by decide

theorem witness_CommandSequenceIsTransform :
    let s : State := { loaded with pending := programEvents (streamProgram .decrypt (countingBytes 9)) ++ [.reset] }
    s.keyv = true ∧ s.ivv = true ∧ s.pending = programEvents (streamProgram .decrypt (countingBytes 9)) ++ [.reset] := by
  exact ⟨rfl, rfl, rfl⟩

/-- The ranges of HostWrites and HostReads at their ends, and a read that answers a next state. -/
theorem witness_host_ranges : (31 < 32 ∧ 7 < 8) ∧
    (0x30 ≤ (0x30#6).toNat ∧ (0x30#6).toNat < 0x38) ∧ (0x30 ≤ (0x37#6).toNat ∧ (0x37#6).toNat < 0x38) ∧ 0x3A ≤ (0x3A#6).toNat ∧
    (0x1F#6).toNat < 0x20 ∧ 0x3C ≤ (0x3C#6).toNat ∧
    nextOf (access (.read 0x20#6) loaded) = some (loaded.observe (.data 0x00#8)) := by decide

theorem witness_BusErrorCauses : access (.write 0x3F#6 1#8) loaded = .fault (.busError 0x3F#6) := rfl

theorem witness_BusErrorChangesNothing :
    let s : State := { loaded with pending := [.access (.read 0x1F#6), .reset] }
    s.pending = .access (.read 0x1F#6) :: [.reset] ∧
      access (.read 0x1F#6) { s with pending := [.reset] } = .fault (.busError 0x1F#6) := ⟨rfl, rfl⟩

theorem witness_ReadAfterWrite : (0x20#6 ≠ 0x38#6 ∧
    hostWrite 0x20#6 5#8 loaded = .next { loaded with ivbuf := loaded.ivbuf.set 0 5#8 } ∧ hostRead 0x20#6 loaded = .ok 0#8) ∧
    0x21#6 ≠ 0x20#6 := ⟨⟨by decide, rfl, rfl⟩, by decide⟩

theorem witness_StepRunsCommand : decode ((8#8 : Byte) ++ (0x02#8 : Byte)) = .command (.eblk 8) ∧
    ({ loaded with pending := [cmdWrite 0x02#8] } : State).pending = .access (.write 0x38#6 0x02#8) :: [] := by decide

theorem witness_FetchWordRuns : decodeTableWord 16 0x0802 = some (.eblk 8) ∧ decodeTableWord 8 0x05 = some (.cfbchunk 0) := by
  decide

theorem witness_RdObservations : ({ loaded with pending := [.access (.write 0x30#6 0x55#8)] } : State).pending =
      .access (.write 0x30#6 0x55#8) :: [] ∧
    ({ loaded with pending := [.access (.read 0x00#6)] } : State).pending = .access (.read 0x00#6) :: [] ∧
    ({ loaded with pending := [.reset] } : State).pending = .reset :: [] := ⟨rfl, rfl, rfl⟩

theorem witness_ProgramObservation :
    let p : List Stmt := [.eblk 8#8, .rddout 1, .wr 0x30#6 0x55#8, .rd 0x3C#6]
    ({ loaded with pending := programEvents p ++ [.reset] } : State).pending = programEvents p ++ [.reset] := rfl

theorem witness_IdleKeepsState : running.pending = [] := rfl

theorem witness_ResetStep : ({ running with pending := [.reset, cmdWrite 1#8] } : State).pending = .reset :: [cmdWrite 1#8] := rfl

/-- A key or an IV that an LDKEY, an LDIV or reset changes, and the valid bit each sets or clears: a check of one step. -/
theorem witness_KeyAndIvChangeOnlyWhenLoaded :
    (nextOf (step { State.reset with keybuf := keyAA, len := 32#8, pending := [cmdWrite 0x01#8] })).map
      (fun t => (decide (t.k ≠ State.reset.k), t.keyv)) = some (true, true) ∧
    (nextOf (step { State.reset with ivbuf := ivBB, len := 8#8, pending := [cmdWrite 0x03#8] })).map
      (fun t => (decide (t.ivreg ≠ State.reset.ivreg), t.ivv)) = some (true, true) ∧
    (nextOf (step { loaded with pending := [.reset] })).map
      (fun t => (decide (t.k ≠ loaded.k), t.keyv, decide (t.ivreg ≠ loaded.ivreg), t.ivv)) =
        some (true, false, true, false) := by decide

/-- ACTIVE set by each CFBINIT, cleared by a partial chunk, LDKEY, LDIV and reset; MODE changed by each CFBINIT and by reset. -/
theorem witness_ActiveAndModeChange :
    (nextOf (step { loaded with pending := [cmdWrite 0x14#8] })).map (fun t => (t.active, t.mode)) = some (true, .decrypt) ∧
    (nextOf (step { running with pending := [cmdWrite 0x04#8] })).map (fun t => (t.active, t.mode)) = some (true, .encrypt) ∧
    (nextOf (step { running with len := 7#8, pending := [cmdWrite 0x05#8] })).map (·.active) = some false ∧
    (nextOf (step { running with len := 32#8, pending := [cmdWrite 0x01#8] })).map (·.active) = some false ∧
    (nextOf (step { running with pending := [cmdWrite 0x03#8] })).map (·.active) = some false ∧
    (nextOf (step { running with pending := [.reset] })).map (fun t => (t.active, t.mode)) = some (false, .encrypt) := by decide

theorem witness_OnlyCommandsWriteErr :
    (nextOf (step (atReset 8#8 (cmdWrite 0x02#8)))).map (·.err) = some .keyNotLoaded ∧
    (nextOf (step { loaded with err := .illegalCommand, pending := [.reset] })).map (·.err) = some .ok := by decide

/-- A state that meets the invariant with a transform in progress, and steps. -/
theorem witness_StepKeepsInv : StateInv { running with pending := [cmdWrite 0x03#8] } ∧
    (nextOf (step { running with pending := [cmdWrite 0x03#8] })).isSome = true := by
  refine ⟨?_, by decide⟩
  unfold StateInv ActiveLoaded UnloadedIsReset
  decide

/-- LDKEY, LDIV and CFBINIT from reset reach a transform in progress. -/
theorem witness_ReachableActiveLoaded : ∃ t, Reaches 5 { State.reset with pending :=
      [.access (.write 0x39#6 32#8), cmdWrite 0x01#8, .access (.write 0x39#6 8#8), cmdWrite 0x03#8, cmdWrite 0x14#8] } t ∧
    t.active = true := ⟨_, rfl, rfl⟩

/-- Two states that differ in FB only, with no transform in progress, and a run of one command. -/
theorem witness_HiddenRegistersUnobservable :
    ActiveLoaded { loaded with pending := [cmdWrite 0x05#8] } ∧
    SameToHost { loaded with pending := [cmdWrite 0x05#8] } { loaded with fb := ivBB, pending := [cmdWrite 0x05#8] } ∧
    ({ loaded with fb := ivBB, pending := [cmdWrite 0x05#8] } : State) ≠ { loaded with pending := [cmdWrite 0x05#8] } ∧
    Reaches 1 { loaded with pending := [cmdWrite 0x05#8] } (loaded.setErr .cfbNotActive) := by
  refine ⟨?_, ?_, by decide, rfl⟩
  · unfold ActiveLoaded; decide
  · unfold SameToHost; decide

theorem witness_PseudoInstructions : ([] : List Byte).length ≤ 8 ∧ (countingBytes 8).length ≤ 8 ∧ 0 ≤ 8 ∧ 8 ≤ 8 := by decide

end Sys2Proof.Tests
end

section
/-! Proofs about big-endian packing (00_scope.md rule R9). Both packings are read as numbers: `be32` as a sum of bytes with
their weights, `byteBe32` as a digit in base 256. That they undo each other is then arithmetic. -/

namespace Sys2Proof.Machine

/-- R9: `b0` is bits 31:24 and `b3` is bits 7:0. -/
theorem be32_toNat (b0 b1 b2 b3 : Byte) :
    (be32 b0 b1 b2 b3).toNat = b0.toNat * 2 ^ 24 + b1.toNat * 2 ^ 16 + b2.toNat * 2 ^ 8 + b3.toNat := by
  simp only [be32, toNat_append_add]
  omega

/-- Byte `j` of a word is its digit of weight `256 ^ (3 - j)`. -/
theorem byteBe32_toNat (w : Word) (j : Fin 4) : (byteBe32 w j).toNat = w.toNat / 2 ^ (8 * (3 - j.val)) % 2 ^ 8 := by
  rw [byteBe32, BitVec.extractLsb'_toNat, Nat.shiftRight_eq_div_pow]

/-- Unpacking after packing gives each byte back. -/
theorem byteBe32_be32 (b0 b1 b2 b3 : Byte) (j : Fin 4) : byteBe32 (be32 b0 b1 b2 b3) j = #v[b0, b1, b2, b3][j] := by
  apply BitVec.eq_of_toNat_eq
  rw [byteBe32_toNat, be32_toNat]
  match j with
  | 0 | 1 | 2 | 3 =>
    simp only [Fin.coe_ofNat_eq_mod, Nat.reduceMod, Fin.getElem_fin, Vector.getElem_mk, List.getElem_toArray,
      List.getElem_cons_zero, List.getElem_cons_succ]
    omega

/-- Packing after unpacking gives the word back. -/
theorem be32_byteBe32 (w : Word) : be32 (byteBe32 w 0) (byteBe32 w 1) (byteBe32 w 2) (byteBe32 w 3) = w := by
  apply BitVec.eq_of_toNat_eq
  simp only [be32_toNat, byteBe32_toNat, Fin.coe_ofNat_eq_mod, Nat.reduceMod]
  omega

/-- Settles O6: the packed word's value, and the two packings inverse in both orders. -/
theorem bigEndianPacking : Obligations.BigEndianPacking :=
  ⟨be32_toNat,
   fun b0 b1 b2 b3 => ⟨byteBe32_be32 b0 b1 b2 b3 0, byteBe32_be32 b0 b1 b2 b3 1, byteBe32_be32 b0 b1 b2 b3 2,
     byteBe32_be32 b0 b1 b2 b3 3⟩,
   be32_byteBe32⟩

end Sys2Proof.Machine
end

section
/-! Proofs about the register tuple (10_state.md): the write matrix of the commands, the layout of STATUS, and the invariant
of rule R40. A command's outcome is read from `exec_cases` and a step's from `step_spec`; nothing below opens a command. -/

namespace Sys2Proof.Machine

/-! ### The write matrix (R42, R43) -/

/-- Only the failing outcome of a command ends with a code other than OK, and it writes ERR alone (R42). -/
theorem exec_eq_setErr_of_err_ne_ok {i : Instr} {s t : State} (h : exec i s = .next t) (hfail : t.err ≠ .ok) :
    t = s.setErr t.err := by
  rcases exec_cases h with
    ⟨_, _, rfl⟩ | ⟨_, rfl⟩ | ⟨_, _, rfl⟩ | ⟨_, rfl⟩ | ⟨_, _, _, _, _, rfl⟩ | ⟨_, _, _, _, _, rfl⟩
  case inl => rfl
  all_goals exact absurd (State.setErr_err _ _) hfail

/-- Settles O21: an illegal word writes IllegalCommand alone, and a command that fails writes its code alone. -/
theorem failureWritesOnlyErr : Obligations.FailureWritesOnlyErr := by
  intro c s t h hfail
  rcases issueCommand_cases h with ⟨_, _, rfl⟩ | ⟨i, _, hexec⟩
  · rfl
  · exact exec_eq_setErr_of_err_ne_ok hexec hfail

/-- The row of R43 for a command that took `s` to `t` with code OK: only the registers of its row differ, and those that the
row gives a fixed value have it. -/
def WriteRow (i : Instr) (s t : State) : Prop :=
  match i with
  | .ldkey _ => t = { s with k := t.k, keyv := true, active := false, err := .ok }
  | .eblk _ => t = { s with dout := t.dout, err := .ok }
  | .ldiv _ => t = { s with ivreg := t.ivreg, ivv := true, active := false, err := .ok }
  | .cfbinit _ _ => t = { s with fb := t.fb, mode := t.mode, active := true, err := .ok }
  | .cfbchunk n => t = { s with dout := t.dout, fb := t.fb, active := if n < 8 then false else s.active, err := .ok }

/-- A chunk shorter than a block ends the transform; a full one leaves ACTIVE as it is (R148). -/
theorem chunkStep_active (sbox : SBox) (n : Nat) (s : State) :
    (chunkStep sbox n s).active = if n < 8 then false else s.active := by
  simp [chunkStep_eq]

/-- A command that succeeds writes exactly its row of the matrix (R43). -/
theorem exec_writeRow {i : Instr} {s t : State} (h : exec i s = .next t) (hok : t.err = .ok) : WriteRow i s t := by
  rcases exec_cases h with
    ⟨code, hcode, rfl⟩ | ⟨rfl, rfl⟩ | ⟨rfl, _, rfl⟩ | ⟨rfl, rfl⟩ | ⟨_, _, rfl, _, _, rfl⟩ | ⟨n, rfl, _, _, _, rfl⟩
  · exact absurd hok hcode
  · rfl
  · rfl
  · rfl
  · rfl
  · rw [WriteRow, ← chunkStep_active Config.sbox n s]
    rfl

/-- Settles O22: the five rows for the commands that succeed, and the last row for every command that fails. -/
theorem writeMatrix : Obligations.WriteMatrix :=
  ⟨fun _ _ _ => exec_writeRow, fun _ _ _ => exec_writeRow, fun _ _ _ => exec_writeRow, fun _ _ _ _ => exec_writeRow,
   fun _ _ _ => exec_writeRow, fun _ _ _ => exec_eq_setErr_of_err_ne_ok⟩

/-! ### The STATUS register (R28, R33) -/

@[simp] theorem flagBit_getElem_zero (b : Bool) : (flagBit b)[0] = b := by
  cases b <;> rfl

@[simp] theorem modeBit_getElem_zero (d : Direction) : (modeBit d)[0] = decide (d = .decrypt) := by
  cases d <;> rfl

/-- Bits 0 to 3 are KEYV, IVV, ACTIVE and MODE (R28): each field is one bit wide, so the part a bit falls in is found by
comparing its position with the widths to its right. -/
theorem statusByte_flags (s : State) :
    (statusByte s).getLsbD 0 = s.keyv ∧ (statusByte s).getLsbD 1 = s.ivv ∧ (statusByte s).getLsbD 2 = s.active ∧
      (statusByte s).getLsbD 3 = decide (s.mode = .decrypt) := by
  simp only [statusByte, BitVec.getLsbD_append]
  simp

/-- Bits 7:4 are reserved and read as zero (R33). -/
theorem statusByte_reserved (s : State) : (statusByte s).extractLsb' 4 4 = 0#4 :=
  BitVec.extractLsb'_append_eq_left

/-- STATUS is at offset 0x3A (R52). -/
theorem regAt_status : regAt 0x3A#6 = .status := by decide

theorem hostRead_status (s : State) : hostRead 0x3A#6 s = .ok (statusByte s) := by
  rw [hostRead, regAt_status]

theorem hostWrite_status (v : Byte) (s : State) : hostWrite 0x3A#6 v s = .fault (.busError 0x3A#6) := by
  rw [hostWrite, regAt_status]

/-- Settles O40: the four flags bit by bit, the reserved bits, and the two accesses at STATUS's offset. -/
theorem statusLayout : Obligations.StatusLayout := by
  refine ⟨fun s => ?_, hostRead_status State.reset⟩
  obtain ⟨hkeyv, hivv, hactive, hmode⟩ := statusByte_flags s
  exact ⟨hkeyv, hivv, hactive, hmode, statusByte_reserved s, hostRead_status s, fun v => hostWrite_status v s⟩

/-! ### ACTIVE implies KEYV and IVV (R40) -/

/-- R40 asks nothing of a state with no transform in progress. -/
theorem activeLoaded_of_inactive {s : State} (h : s.active = false) : ActiveLoaded s :=
  fun hactive => absurd (h.symm.trans hactive) Bool.false_ne_true

/-- R40 speaks of three flags only, so an update that keeps them keeps it. -/
theorem ActiveLoaded.of_flags_eq {s t : State} (hs : ActiveLoaded s) (hactive : t.active = s.active)
    (hkeyv : t.keyv = s.keyv) (hivv : t.ivv = s.ivv) : ActiveLoaded t := by
  rw [ActiveLoaded, hactive, hkeyv, hivv]
  exact hs

/-- Every step keeps R40: only CFBINIT sets ACTIVE, and it has checked both flags; nothing but reset clears a flag, and
reset clears ACTIVE too. -/
theorem step_keeps_activeLoaded (s t : State) (hs : ActiveLoaded s) (h : step s = .next t) : ActiveLoaded t := by
  rcases step_spec h with
    ⟨_, rfl⟩ | ⟨_, _, rfl⟩ | ⟨_, _, _, _, rfl⟩ | ⟨_, _, _, _, _, hwrite⟩ | ⟨_, _, _, hcommand⟩
  case inl => exact hs
  case inr.inl => exact activeLoaded_of_inactive rfl
  case inr.inr.inl => exact hs.of_flags_eq rfl rfl rfl
  case inr.inr.inr.inl =>
    rcases hwrite with ⟨_, rfl⟩ | ⟨_, rfl⟩ | ⟨_, rfl⟩ | rfl <;> exact hs.of_flags_eq rfl rfl rfl
  case inr.inr.inr.inr =>
    rcases hcommand with ⟨_, _, rfl⟩ | ⟨_, _, rfl⟩ | ⟨_, _, _, rfl⟩ | ⟨_, _, rfl⟩ | ⟨_, _, hkeyv, hivv, rfl⟩ |
      ⟨_, _, _, hactive, rfl⟩
    · exact hs.of_flags_eq rfl rfl rfl
    · exact activeLoaded_of_inactive rfl
    · exact hs.of_flags_eq rfl rfl rfl
    · exact activeLoaded_of_inactive rfl
    · exact fun _ => ⟨hkeyv, hivv⟩
    · exact fun _ => hs hactive

/-- Settles O55: R40 holds at reset, whatever the host is about to do, and every step keeps it. -/
theorem reachableActiveLoaded : Obligations.ReachableActiveLoaded :=
  fun _ _ _ => reaches_induction step_keeps_activeLoaded (activeLoaded_of_inactive rfl)

end Sys2Proof.Machine
end

section
/-! Proofs about the host window (20_memory.md). The register map of rule R52 is read row by row, as what `regAt` answers at
the offsets of each row; a host write is then the one line of `hostWrite` for that register. -/

namespace Sys2Proof.Machine

/-! ### The rows of the register map (R52) -/

theorem regAt_keybuf {j : Nat} (h : j < 32) : regAt (BitVec.ofNat 6 j) = .keybuf ⟨j, h⟩ := by
  have hoff : (BitVec.ofNat 6 j).toNat = j := Nat.mod_eq_of_lt (by omega)
  simp only [regAt, hoff, h, dite_true]

theorem regAt_ivbuf {j : Nat} (h : j < 8) : regAt (BitVec.ofNat 6 (0x20 + j)) = .ivbuf ⟨j, h⟩ := by
  have hoff : (BitVec.ofNat 6 (0x20 + j)).toNat = 0x20 + j := Nat.mod_eq_of_lt (by omega)
  simp (disch := omega) only [regAt, hoff, dif_pos, dif_neg, Nat.add_sub_cancel_left]

theorem regAt_din {j : Nat} (h : j < 8) : regAt (BitVec.ofNat 6 (0x28 + j)) = .din ⟨j, h⟩ := by
  have hoff : (BitVec.ofNat 6 (0x28 + j)).toNat = 0x28 + j := Nat.mod_eq_of_lt (by omega)
  simp (disch := omega) only [regAt, hoff, dif_pos, dif_neg, Nat.add_sub_cancel_left]

theorem regAt_cmd : regAt 0x38#6 = .cmd := regAt_eq_cmd.mpr rfl

theorem regAt_len : regAt 0x39#6 = .len := regAt_eq_len.mpr rfl

/-- The read-only and the unmapped offsets: DOUT, and everything from STATUS up. -/
theorem regAt_not_writable {off : Offset} (h : (0x30 ≤ off.toNat ∧ off.toNat < 0x38) ∨ 0x3A ≤ off.toNat) :
    (∃ j, regAt off = .dout j) ∨ regAt off = .status ∨ regAt off = .err ∨ regAt off = .unmapped := by
  revert off
  decide

/-! ### Host writes (R53) -/

/-- A write to an offset that is neither writable nor CMD raises BusError at that offset (R171). -/
theorem hostWrite_not_writable {off : Offset} (h : (0x30 ≤ off.toNat ∧ off.toNat < 0x38) ∨ 0x3A ≤ off.toNat)
    (v : Byte) (s : State) : hostWrite off v s = .fault (.busError off) := by
  rcases regAt_not_writable h with ⟨_, hreg⟩ | hreg | hreg | hreg <;> rw [hostWrite, hreg]

/-- Settles O35: the writable bytes, LEN, CMD, and the offsets that raise BusError, each by its row of the register map. -/
theorem hostWrites : Obligations.HostWrites := by
  intro v s
  refine ⟨fun j h => ?keybuf, fun j h => ?ivbuf, fun j h => ?din, ?len, ?cmd,
    fun off h => hostWrite_not_writable h v s⟩
  case keybuf => rw [hostWrite, regAt_keybuf h]
  case ivbuf => rw [hostWrite, regAt_ivbuf h]
  case din => rw [hostWrite, regAt_din h]
  case len => rw [hostWrite, regAt_len]
  case cmd => rw [hostWrite, regAt_cmd]

end Sys2Proof.Machine
end

section
/-! Proofs about the encoding (30_encoding.md). An illegal command word is read from its fields through the decoder's own
branches, and a legal one from its low byte through `decode_append_cases`. Expansions of byte sequences are given entry by
entry, for sequences of every length. -/

namespace Sys2Proof.Machine

open Sys2Proof.Laws

/-! ### Illegal command words (R85) -/

/-- DIR is bit 4 (R81). -/
theorem cwDir_ne_zero_iff (w : CommandWord) : cwDir w ≠ 0#1 ↔ w.getLsbD 4 = true := by
  have hbit : (cwDir w)[0] = w.getLsbD 4 := by simp [cwDir]
  rw [← hbit]
  generalize cwDir w = d
  revert d
  decide

/-- A command that must have DIR = 0 is refused exactly when DIR = 1 (R83). -/
theorem needsDirZero_illegal_iff (w : CommandWord) (i : Instr) :
    (∃ why, needsDirZero w i = .illegal why) ↔ w.getLsbD 4 = true := by
  rw [← cwDir_ne_zero_iff]
  unfold needsDirZero
  split <;> simp [*]

/-- The operation codes beside the five commands': 0x0 and 0x6 to 0xF. -/
theorem op_unknown {op : BitVec 4} (h1 : op ≠ 0x1#4) (h2 : op ≠ 0x2#4) (h3 : op ≠ 0x3#4) (h4 : op ≠ 0x4#4)
    (h5 : op ≠ 0x5#4) : op = 0x0#4 ∨ 0x6#4 ≤ op := by
  bv_omega

/-- The three causes of R85, in the fields of the word: each branch of the decoder against them. -/
theorem decode_illegal_iff (w : CommandWord) : (∃ why, decode w = .illegal why) ↔
    (cwRsv w ≠ 0#3 ∨ cwOp w = 0x0#4 ∨ 0x6#4 ≤ cwOp w ∨ (w.getLsbD 4 = true ∧ cwOp w ≠ 0x4#4)) := by
  unfold decode
  split_ifs with hrsv h1 h2 h3 h4 h5
  · exact iff_of_true ⟨_, rfl⟩ (.inl hrsv)
  · simp [needsDirZero_illegal_iff, hrsv, h1]
  · simp [needsDirZero_illegal_iff, hrsv, h2]
  · simp [needsDirZero_illegal_iff, hrsv, h3]
  · simp [hrsv, h4]
  · simp [needsDirZero_illegal_iff, hrsv, h5]
  · rcases op_unknown h1 h2 h3 h4 h5 with hzero | hhigh
    · exact iff_of_true ⟨_, rfl⟩ (.inr (.inl hzero))
    · exact iff_of_true ⟨_, rfl⟩ (.inr (.inr (.inl hhigh)))

/-- The six legal values of CW[7:0] (R85). -/
abbrev legalBytes : List Byte := [0x01#8, 0x02#8, 0x03#8, 0x04#8, 0x14#8, 0x05#8]

/-- A legal byte selects a command for every LEN, and no other byte does for any LEN. -/
theorem decode_append_by_byte (len c : Byte) :
    (c ∈ legalBytes ∧ ∃ i, decode (len ++ c) = .command i) ∨ (c ∉ legalBytes ∧ ∃ why, decode (len ++ c) = .illegal why) := by
  rcases decode_append_cases len c with
    ⟨hc, hd⟩ | ⟨hc, hd⟩ | ⟨hc, hd⟩ | ⟨hc, hd⟩ | ⟨hc, hd⟩ | ⟨hc, hd⟩ | ⟨⟨h1, h2, h3, h4, h14, h5⟩, hd⟩
  case inr.inr.inr.inr.inr.inr => exact .inr ⟨by simp [h1, h2, h3, h4, h14, h5], hd⟩
  all_goals exact .inl ⟨by simp [hc], _, hd⟩

theorem decode_command_iff (len c : Byte) : (∃ i, decode (commandWord len c) = .command i) ↔ c ∈ legalBytes := by
  rw [commandWord_eq]
  rcases decode_append_by_byte len c with ⟨hc, hd⟩ | ⟨hc, _, hd⟩
  · exact iff_of_true hd hc
  · simp [hd, hc]

/-- Issuing a word that does not decode to a command writes ERR alone (R85, R180). -/
theorem issueCommand_illegal {c : Byte} {s : State} {why : IllegalWord}
    (h : decode (commandWord s.len c) = .illegal why) : issueCommand c s = .next (s.setErr .illegalCommand) := by
  rw [issueCommand, h]

theorem issueCommand_of_not_legal {c : Byte} (s : State) (hc : c ∉ legalBytes) :
    issueCommand c s = .next (s.setErr .illegalCommand) := by
  rcases decode_append_by_byte s.len c with ⟨hlegal, _⟩ | ⟨_, _, hd⟩
  · exact absurd hlegal hc
  · exact issueCommand_illegal hd

/-- No byte above 0x14 is legal. -/
theorem not_legal_of_gt {n : Nat} (hgt : 0x14 < n) (hlt : n < 2 ^ 8) : BitVec.ofNat 8 n ∉ legalBytes := by
  intro hmem
  have hle : ∀ c ∈ legalBytes, c.toNat ≤ 0x14 := by decide
  have := hle _ hmem
  rw [toNat_ofNat_byte hlt] at this
  omega

/-- 250 bytes are illegal: 15 of those up to 0x14, and the 235 above it. -/
theorem count_not_legal : ((List.range 256).filter fun n => BitVec.ofNat 8 n ∉ legalBytes).length = 250 := by
  have hlow : ((List.range 21).filter fun n => BitVec.ofNat 8 n ∉ legalBytes).length = 15 := by decide
  have hhigh : (((List.range 235).map (21 + ·)).filter fun n => BitVec.ofNat 8 n ∉ legalBytes) =
      (List.range 235).map (21 + ·) := by
    rw [List.filter_eq_self]
    intro n hn
    obtain ⟨m, hm, rfl⟩ := List.mem_map.mp hn
    have hm' : m < 235 := List.mem_range.mp hm
    exact decide_eq_true (not_legal_of_gt (by omega) (by omega))
  rw [show 256 = 21 + 235 from rfl, List.range_add, List.filter_append, List.length_append, hlow, hhigh,
    List.length_map, List.length_range]

/-- Settles O5: the causes by the decoder's branches, the bytes by the word's two halves, and the count over all bytes. -/
theorem illegalWords : Obligations.IllegalWords :=
  ⟨decode_illegal_iff, fun c len => decode_command_iff len c, count_not_legal, fun _ s => issueCommand_of_not_legal s⟩

/-! ### Pseudo-instructions (R90) -/

/-- Entry `j` of a run of byte writes is the write of byte `j` at the offset `j` above the first. -/
theorem writeBytes_eq_ofFn {n : Nat} (off : Nat) (bytes : List Byte) (h : bytes.length = n) :
    writeBytes off bytes = List.ofFn fun j : Fin n => .write (BitVec.ofNat 6 (off + j.val)) bytes[j] := by
  subst h
  induction bytes generalizing off with
  | nil => rfl
  | cons v rest ih =>
    rw [writeBytes, ih]
    simp [List.ofFn_succ, Nat.add_assoc, Nat.add_comm 1]

/-- The byte writes of an array. -/
theorem writeBytes_toList {n : Nat} (off : Nat) (b : Vector Byte n) :
    writeBytes off b.toList = List.ofFn fun j : Fin n => .write (BitVec.ofNat 6 (off + j.val)) b[j] := by
  simp [writeBytes_eq_ofFn off b.toList b.length_toList]

/-- Entry `j` of a run of byte reads is the read at the offset `j` above the first. -/
theorem readBytes_eq_ofFn (off n : Nat) :
    readBytes off n = List.ofFn fun j : Fin n => .read (BitVec.ofNat 6 (off + j.val)) := by
  induction n generalizing off with
  | zero => rfl
  | succ n ih =>
    rw [readBytes, ih]
    simp [List.ofFn_succ, Nat.add_assoc, Nat.add_comm 1]

/-- The lengths that `ldkey`, `eblk` and `ldiv` stand for without an operand. -/
theorem readLine_default_lengths : readLine "ldkey".toList = some [.ldkey 32#8] ∧
    readLine "eblk".toList = some [.eblk 8#8] ∧ readLine "ldiv".toList = some [.ldiv 8#8] := by
  decide

/-- Settles O57: the runs of bytes entry by entry, the default lengths by the reader, the other rows by definition. -/
theorem pseudoInstructions : Obligations.PseudoInstructions := by
  refine ⟨fun _ _ => rfl, fun _ => ⟨rfl, rfl, rfl, rfl⟩, readLine_default_lengths, ⟨rfl, rfl⟩, fun b => ?wrkey,
    writeBytes_toList 0x20, fun bytes _ => writeBytes_eq_ofFn 0x28 bytes rfl, fun n _ => readBytes_eq_ofFn 0x30 n, rfl⟩
  case wrkey => simpa only [Stmt.expand, Nat.zero_add] using writeBytes_toList 0x00 b

end Sys2Proof.Machine
end

section
/-! Proofs about the block unit (40_block_cipher.md). Lanes and packed words are read as numbers. The transform is a fold of the
round over one list of 32 subkeys, and that list is read off the sequence of indices that the key schedule runs through. The
two commands are their equations `execLdkey_eq` and `execEblk_eq`. -/

namespace Sys2Proof.Machine

open Sys2Proof.Laws

/-! ### Key words and key schedule (R101, R104) -/

/-- Settles O7: a key word is a packed word, and a packed word has the big-endian value. -/
theorem keyWordsAreBigEndian : Obligations.KeyWordsAreBigEndian := by
  intro kb i h
  rw [keyWords_getElem, be32_toNat]

theorem subkeyIndex_of_lt {i : Fin 32} (h : i.val < 24) : (subkeyIndex i).val = i.val % 8 := by
  rw [subkeyIndex, if_pos h]

theorem subkeyIndex_of_le {i : Fin 32} (h : 24 ≤ i.val) : (subkeyIndex i).val = 7 - i.val % 8 := by
  rw [subkeyIndex, if_neg (by omega)]

/-- The full sequence of R104. -/
theorem ofFn_subkeyIndex : List.ofFn subkeyIndex =
    [0, 1, 2, 3, 4, 5, 6, 7, 0, 1, 2, 3, 4, 5, 6, 7, 0, 1, 2, 3, 4, 5, 6, 7, 7, 6, 5, 4, 3, 2, 1, 0] := by
  decide

/-- Settles O8: the two branches of the index, and its 32 values. -/
theorem keySchedule : Obligations.KeySchedule := by
  refine ⟨fun i => ⟨subkeyIndex_of_lt, subkeyIndex_of_le⟩, ?sequence⟩
  calc (List.ofFn fun i : Fin 32 => (subkeyIndex i).val)
      _ = (List.ofFn subkeyIndex).map Fin.val := (List.map_ofFn ..).symm
      _ = _ := by rw [ofFn_subkeyIndex]; rfl

/-! ### Substitution (R105) -/

/-- A nibble is a digit in base 16. -/
theorem nibble_val (w : Word) (p : Fin 8) : (nibble w p).val = w.toNat / 2 ^ (4 * p.val) % 2 ^ 4 := by
  rw [nibble, BitVec.val_toFin, BitVec.extractLsb'_toNat, Nat.shiftRight_eq_div_pow]

/-- In a word put together from eight lanes, the nibble at position `p` is lane `p`. -/
theorem nibble_val_lanes (lane : Fin 8 → BitVec 4) (p : Fin 8) :
    (nibble (lane 7 ++ (lane 6 ++ (lane 5 ++ (lane 4 ++ (lane 3 ++ (lane 2 ++ (lane 1 ++ lane 0))))))) p).val =
      (lane p).toNat := by
  rw [nibble_val, toNat_eight_nibbles]
  match p with
  | 0 | 1 | 2 | 3 | 4 | 5 | 6 | 7 =>
    simp only [Fin.coe_ofNat_eq_mod, Nat.reduceMod]
    omega

/-- Settles O9: the substituted word is its eight lanes, and lane `p` is `SBOX[p]` of nibble `p`. -/
theorem substitutionByNibbles : Obligations.SubstitutionByNibbles :=
  fun sbox m p => Fin.ext (nibble_val_lanes (substLane sbox m) p)

/-! ### Rotation (R106) -/

/-- Bit `j` of the rotated word: the top eleven bits come round to the bottom. -/
theorem rotl32_eleven_getLsbD (s : Word) {j : Nat} (h : j < 32) :
    (rotl32 s 11).getLsbD j = if j < 11 then s.getLsbD (21 + j) else s.getLsbD (j - 11) := by
  rw [rotl32, BitVec.getLsbD_rotateLeft]
  simp [h]

theorem rotl32_eleven_eq_append (s : Word) : rotl32 s 11 = s.extractLsb' 0 21 ++ s.extractLsb' 21 11 := by
  apply BitVec.eq_of_getLsbD_eq
  intro j hj
  rw [rotl32_eleven_getLsbD s hj, BitVec.getLsbD_append]
  split
  case isTrue hlow => simp [hlow]
  case isFalse hhigh => simp [show j - 11 < 21 by omega]

/-- Bits 0 to 20 move up by eleven, bits 21 to 31 come round. -/
theorem rotl32_eleven_moves_bit (s : Word) {j : Nat} (h : j < 32) :
    (rotl32 s 11).getLsbD ((j + 11) % 32) = s.getLsbD j := by
  rw [rotl32_eleven_getLsbD s (Nat.mod_lt _ (by decide))]
  by_cases hj : j < 21
  · rw [if_neg (by omega), show (j + 11) % 32 - 11 = j by omega]
  · rw [if_pos (by omega), show 21 + (j + 11) % 32 = j by omega]

/-- Settles O10: the slices bit by bit, and the two ways a bit can go. -/
theorem rotationByEleven : Obligations.RotationByEleven :=
  fun s => ⟨rotl32_eleven_eq_append s, fun _ => rotl32_eleven_moves_bit s⟩

/-! ### The rounds and the transform (R108 to R110) -/

/-- One round written out: the swap, and the round function's four steps (R103, R105, R106, R108). -/
theorem feistelRound_eq (sbox : SBox) (k : Word) (h : Halves) :
    feistelRound sbox k h = ⟨h.right, rotl32 (subst sbox (add32 h.right k)) 11 ^^^ h.left⟩ := rfl

/-- Settles O11: one more round is one Feistel round with the scheduled subkey. -/
theorem feistelRoundSwaps : Obligations.FeistelRoundSwaps := by
  intro sbox key x i h
  rw [halvesAfter_succ, feistelRound_eq]
  exact ⟨rfl, rfl⟩

/-- Reading a block of two words gives the two words back. -/
theorem blockHalves_bytesOfWords (hi lo : Word) : blockHalves (bytesOfWords hi lo) = ⟨hi, lo⟩ :=
  congrArg₂ Halves.mk (be32_byteBe32 hi) (be32_byteBe32 lo)

/-- The final swap (R109): read as halves, the output is the final pair the other way round. -/
theorem blockHalves_blockTransform (sbox : SBox) (key : KeyFile) (x : Block) :
    blockHalves (blockTransform sbox key x) =
      ⟨(halvesAfter sbox key x 32 (Nat.le_refl _)).right, (halvesAfter sbox key x 32 (Nat.le_refl _)).left⟩ := by
  rw [blockTransform_eq, blockHalves_bytesOfWords]

/-- Settles O12: the two halves of the output block. -/
theorem finalSwap : Obligations.FinalSwap := fun sbox key x =>
  ⟨congrArg Halves.left (blockHalves_blockTransform sbox key x),
   congrArg Halves.right (blockHalves_blockTransform sbox key x)⟩

/-- The subkeys of the 32 rounds, in the order of the rounds (R104). -/
def roundKeys (key : KeyFile) : List Word := (List.ofFn subkeyIndex).map fun i => key[i]

@[simp] theorem length_roundKeys (key : KeyFile) : (roundKeys key).length = 32 := by
  rw [roundKeys, List.length_map, List.length_ofFn]

theorem roundKeys_getElem (key : KeyFile) {n : Nat} (h : n < 32) :
    (roundKeys key)[n]'(by simpa using h) = key[subkeyIndex ⟨n, h⟩] := by
  simp only [roundKeys, List.getElem_map, List.getElem_ofFn]

/-- The halves after `n` rounds: the first `n` subkeys, each through one round. -/
theorem halvesAfter_eq_foldl (sbox : SBox) (key : KeyFile) (x : Block) (n : Nat) (h : n ≤ 32) :
    halvesAfter sbox key x n h =
      ((roundKeys key).take n).foldl (fun halves k => feistelRound sbox k halves) (blockHalves x) := by
  induction n with
  | zero => rfl
  | succ n ih =>
    rw [halvesAfter_succ, ih, List.take_succ_eq_append_getElem (by simpa using h), List.foldl_concat, roundKeys_getElem]

/-- The schedule over the words: three times forward, once in reverse (R104). -/
theorem roundKeys_eq (key : KeyFile) :
    let forward := [key[0], key[1], key[2], key[3], key[4], key[5], key[6], key[7]]
    roundKeys key = forward ++ forward ++ forward ++ forward.reverse := by
  rw [roundKeys, ofFn_subkeyIndex]
  rfl

/-- Settles O13: all 32 subkeys of the fold, written out as the schedule runs them. -/
theorem transformRunsTheSchedule : Obligations.TransformRunsTheSchedule := by
  intro sbox key x forward start last
  have hlast : halvesAfter sbox key x 32 (Nat.le_refl _) = last := by
    rw [halvesAfter_eq_foldl, List.take_of_length_le (by simp), roundKeys_eq]
    simp only [feistelRound_eq]
    rfl
  rw [blockTransform_eq, hlast]

/-! ### LDKEY and EBLK (R100, R111) -/

/-- Settles O15: the word by its byte 0x01, and the two outcomes of LDKEY. -/
theorem ldkeyResult : Obligations.LdkeyResult := by
  refine ⟨fun len => ?word, fun s => ⟨(s.loadKey (keyWords s.keybuf)).setErr .ok, ?loads, ?words, rfl⟩, fun n s h => ?fails⟩
  case word => simp [commandWord_eq, decode_append]
  case loads => rw [exec_ldkey, execLdkey_eq, if_pos rfl]
  case words => exact keyWords_getElem s.keybuf
  case fails => rw [exec_ldkey, execLdkey_eq, if_neg h]; rfl

/-- The example of R111 under SBOX_ID. -/
theorem blockTransform_example_sboxId :
    blockTransform Config.sboxId (keyWords (Vector.replicate 32 0xAA#8)) (Vector.replicate 8 0x00#8) =
      #v[0x27#8, 0xdc#8, 0x12#8, 0x89#8, 0x4f#8, 0x67#8, 0x64#8, 0xcf#8] := by
  decide +kernel

/-- The example of R111 under SBOX_MAGMA. -/
theorem blockTransform_example_sboxMagma :
    blockTransform Config.sboxMagma (keyWords (Vector.replicate 32 0xAA#8)) (Vector.replicate 8 0x00#8) =
      #v[0x8a#8, 0xc8#8, 0x55#8, 0x31#8, 0x34#8, 0x4c#8, 0x00#8, 0xfd#8] := by
  decide +kernel

/-- Settles O16: the word by its byte 0x02, the three outcomes of EBLK with the length checked first, and the example. -/
theorem eblkResult : Obligations.EblkResult := by
  refine ⟨fun len => ?word, fun s hkey => ?encrypts, fun n s hlen => ?badLength, fun s hkey => ?noKey,
    blockTransform_example_sboxId, blockTransform_example_sboxMagma⟩
  case word => simp [commandWord_eq, decode_append]
  case encrypts => rw [exec_eblk, execEblk_eq, if_pos rfl, if_pos hkey]; rfl
  case badLength => rw [exec_eblk, execEblk_eq, if_neg hlen]; rfl
  case noKey => rw [exec_eblk, execEblk_eq, if_pos rfl, if_neg (by simp [hkey])]; rfl

end Sys2Proof.Machine
end

section
/-! Proofs about the CFB engine (41_cfb_mode.md). The two commands are their equations `execLdiv_eq` and `execCfbchunk_eq`. The
facts about a stream hold for any number of passes, covered by the stream or not, so each is one induction over the passes. -/

namespace Sys2Proof.Machine

open Sys2Proof.Laws

/-! ### The CFB transform (R141, R150, R151) -/

/-- Some passes put out a byte for each byte they cover, 8 to a pass, as far as the stream goes. -/
theorem length_cfbPasses (sbox : SBox) (key : KeyFile) (dir : Direction) (passes : Nat) (fb : Block) (bytes : List Byte) :
    (cfbPasses sbox key dir passes fb bytes).length = min (8 * passes) bytes.length := by
  induction passes generalizing fb bytes with
  | zero => simp
  | succ passes ih =>
    rw [cfbPasses_succ, List.length_append, List.length_zipWith, List.length_take, Vector.length_toList, ih,
      List.length_drop]
    omega

/-- The passes of R141 cover the stream. -/
theorem le_eight_mul_cfbPassCount (n : Nat) : n ≤ 8 * cfbPassCount n := by
  unfold cfbPassCount
  omega

/-- Settles O30: the passes cover the whole stream. -/
theorem cfbLength : Obligations.CfbLength := by
  intro sbox key iv dir bytes
  rw [cfbTransform, length_cfbPasses, Nat.min_eq_right (le_eight_mul_cfbPassCount _)]

/-- The output of one pass over what is left of a stream: its next chunk xor the keystream block (R141). -/
def passOutput (sbox : SBox) (key : KeyFile) (fb : Block) (bytes : List Byte) : List Byte :=
  List.zipWith (· ^^^ ·) (bytes.take 8) (blockTransform sbox key fb).toList

/-- Encrypting, the feedback is the output. -/
theorem cfbPasses_encrypt_succ (sbox : SBox) (key : KeyFile) (passes : Nat) (fb : Block) (bytes : List Byte) :
    cfbPasses sbox key .encrypt (passes + 1) fb bytes =
      passOutput sbox key fb bytes ++
        cfbPasses sbox key .encrypt passes (padBlock (passOutput sbox key fb bytes)) (bytes.drop 8) :=
  cfbPasses_succ ..

/-- Decrypting, the feedback is the input. -/
theorem cfbPasses_decrypt_succ (sbox : SBox) (key : KeyFile) (passes : Nat) (fb : Block) (bytes : List Byte) :
    cfbPasses sbox key .decrypt (passes + 1) fb bytes =
      passOutput sbox key fb bytes ++
        cfbPasses sbox key .decrypt passes (padBlock (bytes.take 8)) (bytes.drop 8) :=
  cfbPasses_succ ..

theorem length_passOutput (sbox : SBox) (key : KeyFile) (fb : Block) (bytes : List Byte) :
    (passOutput sbox key fb bytes).length = min 8 bytes.length := by
  rw [passOutput, List.length_zipWith, List.length_take, Vector.length_toList]
  omega

/-- Only the next chunk is read. -/
theorem passOutput_take (sbox : SBox) (key : KeyFile) (fb : Block) (bytes : List Byte) :
    passOutput sbox key fb (bytes.take 8) = passOutput sbox key fb bytes := by
  rw [passOutput, passOutput, List.take_take, Nat.min_self]

/-- The same keystream block twice cancels, whatever the block transform is. -/
theorem passOutput_passOutput (sbox : SBox) (key : KeyFile) (fb : Block) (bytes : List Byte) :
    passOutput sbox key fb (passOutput sbox key fb bytes) = bytes.take 8 := by
  apply List.ext_getElem
  · simp [length_passOutput]
  · intro j _ _
    simp [passOutput]

/-- The output of a pass is a whole chunk, unless nothing comes after it. -/
theorem length_passOutput_eq_or_rest_eq_nil (sbox : SBox) (key : KeyFile) (dir : Direction) (passes : Nat)
    (fb fb' : Block) (bytes : List Byte) :
    (passOutput sbox key fb bytes).length = 8 ∨ cfbPasses sbox key dir passes fb' (bytes.drop 8) = [] := by
  rw [length_passOutput, ← List.length_eq_zero_iff, length_cfbPasses, List.length_drop]
  omega

/-- Cutting 8 bytes off a list put together parts it where it was put together, if its first part is a whole chunk or the last
one. -/
theorem take_drop_append_chunk {out rest : List Byte} (hout : out.length ≤ 8) (h : out.length = 8 ∨ rest = []) :
    (out ++ rest).take 8 = out ∧ (out ++ rest).drop 8 = rest := by
  rcases h with hwhole | rfl
  · exact ⟨List.take_left' hwhole, List.drop_left' hwhole⟩
  · rw [List.append_nil]
    exact ⟨List.take_of_length_le hout, List.drop_of_length_le hout⟩

/-- Decrypting passes give back what as many encrypting passes covered: both sides feed back the same ciphertext chunk. -/
theorem cfbPasses_decrypt_encrypt (sbox : SBox) (key : KeyFile) (passes : Nat) (fb : Block) (bytes : List Byte) :
    cfbPasses sbox key .decrypt passes fb (cfbPasses sbox key .encrypt passes fb bytes) = bytes.take (8 * passes) := by
  induction passes generalizing fb bytes with
  | zero => rfl
  | succ passes ih =>
    rw [cfbPasses_encrypt_succ]
    set out := passOutput sbox key fb bytes with hout
    set rest := cfbPasses sbox key .encrypt passes (padBlock out) (bytes.drop 8)
    have hle : out.length ≤ 8 := by rw [length_passOutput]; exact Nat.min_le_left ..
    obtain ⟨htake, hdrop⟩ := take_drop_append_chunk hle
      (length_passOutput_eq_or_rest_eq_nil sbox key .encrypt passes fb (padBlock out) bytes)
    calc cfbPasses sbox key .decrypt (passes + 1) fb (out ++ rest)
        _ = passOutput sbox key fb out ++ cfbPasses sbox key .decrypt passes (padBlock out) rest := by
          rw [cfbPasses_decrypt_succ, ← passOutput_take, htake, hdrop]
        _ = bytes.take 8 ++ (bytes.drop 8).take (8 * passes) := by rw [hout, passOutput_passOutput, ih]
        _ = bytes.take (8 * (passes + 1)) := by rw [← List.take_add, Nat.mul_succ, Nat.add_comm]

/-- Settles O29: the ciphertext is as long as the stream, so both runs have the same passes, and these cover the stream. -/
theorem cfbRoundTrip : Obligations.CfbRoundTrip := by
  intro sbox key iv bytes
  calc cfbTransform sbox key iv .decrypt (cfbTransform sbox key iv .encrypt bytes)
      _ = cfbPasses sbox key .decrypt (cfbPassCount bytes.length) iv (cfbTransform sbox key iv .encrypt bytes) := by
        rw [cfbTransform, cfbLength]
      _ = bytes.take (8 * cfbPassCount bytes.length) := cfbPasses_decrypt_encrypt ..
      _ = bytes := List.take_of_length_le (le_eight_mul_cfbPassCount _)

/-! ### LDIV and CFBCHUNK (R140, R144) -/

/-- Settles O17: the word by its byte 0x03, and the two outcomes of LDIV. -/
theorem ldivResult : Obligations.LdivResult := by
  refine ⟨fun len => ?word, fun s => ?loads, fun n s hlen => ?fails⟩
  case word => simp [commandWord_eq, decode_append]
  case loads => rw [exec_ldiv, execLdiv_eq, if_pos rfl]; rfl
  case fails => rw [exec_ldiv, execLdiv_eq, if_neg hlen]; rfl

/-- R145, R146: the output of a chunk, byte by byte. -/
theorem chunkStep_dout_getElem (sbox : SBox) (n : Nat) (s : State) (j : Nat) (h : j < 8) :
    (chunkStep sbox n s).dout[j] = if j < n then s.din[j] ^^^ (blockTransform sbox s.k s.fb)[j] else 0#8 :=
  chunkOutput_getElem n s.din (blockTransform sbox s.k s.fb) j h

/-- R147's `src`, byte by byte. -/
theorem feedbackSource_getElem (mode : Direction) (din out : Block) (j : Nat) (h : j < 8) :
    (feedbackSource mode din out)[j] = if mode = .encrypt then out[j] else din[j] := by
  cases mode <;> rfl

/-- R147: the next feedback value, byte by byte. -/
theorem chunkStep_fb_getElem (sbox : SBox) (n : Nat) (s : State) (j : Nat) (h : j < 8) :
    (chunkStep sbox n s).fb[j] =
      if j < n then (if s.mode = .encrypt then s.din[j] ^^^ (blockTransform sbox s.k s.fb)[j] else s.din[j]) else 0#8 := by
  simp only [chunkStep_eq, State.putChunk_fb, nextFeedback_getElem]
  split
  case isTrue hj => rw [feedbackSource_getElem, chunkOutput_getElem, if_pos hj]
  case isFalse => rfl

/-- R148: of the legal lengths only 8 keeps a transform in progress. -/
theorem chunkStep_active_eq_decide (sbox : SBox) {n : Nat} {s : State} (hn : n ≤ 8) (hactive : s.active = true) :
    (chunkStep sbox n s).active = decide (n = 8) := by
  rw [chunkStep_active, hactive]
  split
  case isTrue hlt => exact (decide_eq_false (Nat.ne_of_lt hlt)).symm
  case isFalse hge => exact (decide_eq_true (by omega)).symm

/-- The keystream block of the example of R144 under SBOX_MAGMA. -/
theorem blockTransform_example_keystream :
    blockTransform Config.sboxMagma (keyWords (Vector.replicate 32 0xAA#8)) (Vector.replicate 8 0xBB#8) =
      #v[0xe2#8, 0x89#8, 0x4b#8, 0x29#8, 0x73#8, 0xb5#8, 0x96#8, 0x56#8] := by
  decide +kernel

/-- Settles O19: the word by its byte 0x05, the three outcomes of CFBCHUNK with the length checked first, and the example. -/
theorem cfbchunkResult : Obligations.CfbchunkResult := by
  refine ⟨fun len => ?word, fun n s hpos hle hactive => ⟨(chunkStep Config.sbox n s).setErr .ok, ?runs,
    ?output, ?feedback, ?active, rfl⟩, fun n s hlen => ?badLength, fun n s hpos hle hactive => ?notActive,
    blockTransform_example_keystream⟩
  case word => simp [commandWord_eq, decode_append]
  case runs => rw [exec_cfbchunk, execCfbchunk_eq, if_pos ⟨hpos, hle⟩, if_pos hactive]
  case output => simpa only [State.setErr_dout] using chunkStep_dout_getElem Config.sbox n s
  case feedback => simpa only [State.setErr_fb] using chunkStep_fb_getElem Config.sbox n s
  case active => rw [State.setErr_active, chunkStep_active_eq_decide Config.sbox hle hactive]
  case badLength => rw [exec_cfbchunk, execCfbchunk_eq, if_neg (by omega)]; rfl
  case notActive => rw [exec_cfbchunk, execCfbchunk_eq, if_pos ⟨hpos, hle⟩, if_neg (by simp [hactive])]; rfl

end Sys2Proof.Machine
end

section
/-! Proofs about the exceptions (60_exceptions.md). A command runs its ordered checks, and the first of them that fails
decides ERR; a host access faults exactly when the access column of the register map (20_memory.md rule R52) forbids it. -/

namespace Sys2Proof.Machine

open Sys2Proof.Laws

/-! ### Command errors (R176) -/

/-- The checks that follow the decoding of a command, the length before the state (R176). -/
def commandChecks (i : Instr) (s : State) : List Check :=
  match i with
  | .ldkey len => [⟨len == 32, .invalidKeySize⟩]
  | .eblk len => [⟨len == 8, .invalidBlockSize⟩, ⟨s.keyv, .keyNotLoaded⟩]
  | .ldiv len => [⟨len == 8, .invalidIVSize⟩]
  | .cfbinit _ _ => [⟨s.keyv, .keyNotLoaded⟩, ⟨s.ivv, .ivNotLoaded⟩]
  | .cfbchunk len => [⟨decide (1 ≤ len ∧ len ≤ 8), .invalidBlockSize⟩, ⟨s.active, .cfbNotActive⟩]

/-- The code a command ends with: that of its first failing check, or OK. -/
def commandCode (i : Instr) (s : State) : ErrCode := (firstFailure (commandChecks i s)).getD .ok

theorem runCommand_completes (checks : List Check) (effect : State → State) (s : State) :
    ∃ t, runCommand checks effect s = .next t ∧ t.err = (firstFailure checks).getD .ok := by
  refine ⟨_, runCommand_eq checks effect s, ?_⟩
  cases firstFailure checks <;> rfl

/-- Each arm of `exec` makes its command's checks and nothing before them. -/
theorem exec_eq_runCommand (i : Instr) (s : State) : ∃ effect, exec i s = runCommand (commandChecks i s) effect s := by
  cases i with
  | ldkey len => exact ⟨fun s => s.loadKey (keyWords s.keybuf), rfl⟩
  | eblk len => exact ⟨fun s => s.putBlock (blockTransform Config.sbox s.k s.din), rfl⟩
  | ldiv len => exact ⟨fun s => s.loadIv s.ivbuf, rfl⟩
  | cfbinit len dir => exact ⟨fun s => s.startTransform dir, rfl⟩
  | cfbchunk len => exact ⟨chunkStep Config.sbox len, rfl⟩

theorem exec_completes (i : Instr) (s : State) : ∃ t, exec i s = .next t ∧ t.err = commandCode i s := by
  obtain ⟨effect, hexec⟩ := exec_eq_runCommand i s
  rw [hexec]
  exact runCommand_completes _ effect s

theorem commandCode_ldkey (len : Byte) (s : State) :
    commandCode (.ldkey len.toNat) s = if len ≠ 32#8 then .invalidKeySize else .ok := by
  have hlen : len.toNat = 32 ↔ len = 32#8 := BitVec.toNat_inj (y := 32#8)
  by_cases h : len = 32#8 <;> simp [commandCode, commandChecks, hlen, h]

theorem commandCode_eblk (len : Byte) (s : State) : commandCode (.eblk len.toNat) s =
    if len ≠ 8#8 then .invalidBlockSize else if s.keyv = false then .keyNotLoaded else .ok := by
  have hlen : len.toNat = 8 ↔ len = 8#8 := BitVec.toNat_inj (y := 8#8)
  by_cases h : len = 8#8 <;> cases hkeyv : s.keyv <;> simp [commandCode, commandChecks, hlen, h, hkeyv]

theorem commandCode_ldiv (len : Byte) (s : State) :
    commandCode (.ldiv len.toNat) s = if len ≠ 8#8 then .invalidIVSize else .ok := by
  have hlen : len.toNat = 8 ↔ len = 8#8 := BitVec.toNat_inj (y := 8#8)
  by_cases h : len = 8#8 <;> simp [commandCode, commandChecks, hlen, h]

theorem commandCode_cfbinit (len : Nat) (dir : Direction) (s : State) : commandCode (.cfbinit len dir) s =
    if s.keyv = false then .keyNotLoaded else if s.ivv = false then .ivNotLoaded else .ok := by
  cases hkeyv : s.keyv <;> cases hivv : s.ivv <;> simp [commandCode, commandChecks, hkeyv, hivv]

theorem commandCode_cfbchunk (len : Byte) (s : State) : commandCode (.cfbchunk len.toNat) s =
    if len = 0#8 ∨ 8#8 < len then .invalidBlockSize else if s.active = false then .cfbNotActive else .ok := by
  have hlen : (1 ≤ len.toNat ∧ len.toNat ≤ 8) ↔ ¬ (len = 0#8 ∨ 8#8 < len) := by bv_omega
  by_cases h : len = 0#8 ∨ 8#8 < len <;> cases hactive : s.active <;>
    simp [commandCode, commandChecks, hlen, h, hactive]

/-- Issuing a word that decodes to a command runs it to its end. -/
theorem issueCommand_completes_of_command {c : Byte} {s : State} {i : Instr}
    (h : decode (s.len ++ c) = .command i) : ∃ t, issueCommand c s = .next t ∧ t.err = commandCode i s := by
  rw [issueCommand, commandWord_eq, h]
  exact exec_completes i s

/-- Settles O20: the decoding by the word's low byte, and then the code of the command it selects. -/
theorem checkOrder : Obligations.CheckOrder := by
  intro c s
  rcases decode_append_cases s.len c with
    ⟨rfl, hd⟩ | ⟨rfl, hd⟩ | ⟨rfl, hd⟩ | ⟨rfl, hd⟩ | ⟨rfl, hd⟩ | ⟨rfl, hd⟩ | ⟨⟨h1, h2, h3, h4, h14, h5⟩, why, hd⟩
  case inr.inr.inr.inr.inr.inr =>
    exact ⟨_, issueCommand_illegal hd, by simp [h1, h2, h3, h4, h14, h5]⟩
  all_goals
    obtain ⟨t, ht, herr⟩ := issueCommand_completes_of_command hd
    refine ⟨t, ht, herr.trans ?_⟩
  · exact commandCode_ldkey s.len s
  · exact commandCode_eblk s.len s
  · exact commandCode_ldiv s.len s
  · exact commandCode_cfbinit _ _ s
  · exact commandCode_cfbinit _ _ s
  · exact commandCode_cfbchunk s.len s

/-! ### Bus faults (R171) -/

/-- The registers that R52 makes readable: all but the write-only ones. -/
def Reg.readable : Reg → Bool
  | .keybuf _ | .cmd | .unmapped => false
  | .ivbuf _ | .din _ | .dout _ | .len | .status | .err => true

/-- The registers that R52 makes writable: all but the read-only ones. -/
def Reg.writable : Reg → Bool
  | .dout _ | .status | .err | .unmapped => false
  | .keybuf _ | .ivbuf _ | .din _ | .cmd | .len => true

theorem regAt_not_readable_iff (off : Offset) : (regAt off).readable = false ↔
    off.toNat < 0x20 ∨ off.toNat = 0x38 ∨ (0x3C ≤ off.toNat ∧ off.toNat ≤ 0x3F) := by
  revert off
  decide

theorem regAt_not_writable_iff (off : Offset) : (regAt off).writable = false ↔
    (0x30 ≤ off.toNat ∧ off.toNat ≤ 0x37) ∨ off.toNat = 0x3A ∨ off.toNat = 0x3B ∨
      (0x3C ≤ off.toNat ∧ off.toNat ≤ 0x3F) := by
  revert off
  decide

theorem hostRead_error_iff {off : Offset} {s : State} {f : Fault} :
    hostRead off s = .error f ↔ (regAt off).readable = false ∧ f = .busError off := by
  unfold hostRead
  cases regAt off <;> simp [Reg.readable, eq_comm (a := Fault.busError off)]

/-- The CMD write never faults: the command it issues completes. -/
theorem issueCommand_ne_fault (c : Byte) (s : State) (f : Fault) : issueCommand c s ≠ .fault f := by
  obtain ⟨t, ht, _⟩ := checkOrder c s
  simp [ht]

theorem hostWrite_fault_iff {off : Offset} {v : Byte} {s : State} {f : Fault} :
    hostWrite off v s = .fault f ↔ (regAt off).writable = false ∧ f = .busError off := by
  unfold hostWrite
  cases regAt off <;> simp [Reg.writable, issueCommand_ne_fault, eq_comm (a := Fault.busError off)]

theorem access_read_fault_iff {off : Offset} {s : State} {f : Fault} :
    access (.read off) s = .fault f ↔ (regAt off).readable = false ∧ f = .busError off := by
  rw [← hostRead_error_iff (s := s), access]
  cases hostRead off s <;> simp

theorem access_write_fault_iff {off : Offset} {v : Byte} {s : State} {f : Fault} :
    access (.write off v) s = .fault f ↔ (regAt off).writable = false ∧ f = .busError off :=
  hostWrite_fault_iff

/-- Settles O37: an access faults exactly at the registers without the permission, which stand at the offsets of R171. -/
theorem busErrorCauses : Obligations.BusErrorCauses := by
  intro off v s
  refine ⟨?reads, ?writes, fun a f h => ?ownOffset⟩
  case reads => rw [access_read_fault_iff, and_iff_left rfl, regAt_not_readable_iff]
  case writes => rw [access_write_fault_iff, and_iff_left rfl, regAt_not_writable_iff]
  case ownOffset =>
    cases a with
    | read o => exact (access_read_fault_iff.mp h).2
    | write o w => exact (access_write_fault_iff.mp h).2

end Sys2Proof.Machine
end

section
/-! Proofs about the round trip of the encoding (30_encoding.md). The encoder's word is its LEN byte and a command byte, so
`decode_append` says what the decoder makes of it; a decoded word is read back by its low byte, through `decode_append_cases`. -/

namespace Sys2Proof.Machine

open Sys2Proof.Laws

/-! ### Decoding and encoding (R81, R84, R86) -/

/-- The decoder on a packed word whose count fits its field: the low byte alone selects the command. -/
theorem decode_packWord {len : Nat} (h : len < 2 ^ 8) (dir : BitVec 1) (op : BitVec 4) :
    decode (packWord len dir op) =
      if op = 0x1#4 then (if dir = 0#1 then .command (.ldkey len) else .illegal .dirNotAllowed)
      else if op = 0x2#4 then (if dir = 0#1 then .command (.eblk len) else .illegal .dirNotAllowed)
      else if op = 0x3#4 then (if dir = 0#1 then .command (.ldiv len) else .illegal .dirNotAllowed)
      else if op = 0x4#4 then .command (.cfbinit len (dirOfBit dir))
      else if op = 0x5#4 then (if dir = 0#1 then .command (.cfbchunk len) else .illegal .dirNotAllowed)
      else .illegal .unknownOp := by
  have hrsv : (0#3 ++ (dir ++ op) : Byte).extractLsb' 5 3 = 0#3 := by revert dir op; decide
  have hdir : (0#3 ++ (dir ++ op) : Byte).extractLsb' 4 1 = dir := by revert dir op; decide
  have hop : (0#3 ++ (dir ++ op) : Byte).extractLsb' 0 4 = op := by revert dir op; decide
  rw [packWord, decode_append, toNat_ofNat_byte h, hrsv, hdir, hop, if_neg (not_not.mpr rfl)]

theorem dirOfBit_dirBit (dir : Direction) : dirOfBit (dirBit dir) = dir := by cases dir <;> rfl

/-- Settles O1: each command's own operation code and direction bit select it again, with its length. -/
theorem decodeOfEncode : Obligations.DecodeOfEncode := by
  intro i h
  cases i with
  | ldkey len => exact decode_packWord h ..
  | eblk len => exact decode_packWord h ..
  | ldiv len => exact decode_packWord h ..
  | cfbinit len dir => exact (decode_packWord h ..).trans (congrArg (Decoded.command ∘ Instr.cfbinit len) (dirOfBit_dirBit dir))
  | cfbchunk len => exact decode_packWord h ..

/-- A packed word is the LEN byte it was given and its low byte. -/
theorem packWord_toNat (len : Byte) (dir : BitVec 1) (op : BitVec 4) :
    packWord len.toNat dir op = len ++ (0#3 ++ (dir ++ op)) := by
  rw [packWord, BitVec.ofNat_toNat, BitVec.setWidth_eq]

/-- Settles O2: the LEN byte is below 256, and each of the six legal low bytes is the one the encoder gives its command. -/
theorem encodeOfDecode : Obligations.EncodeOfDecode := by
  intro w i hi
  rw [word_eq_append w] at hi ⊢
  generalize cwLen w = len at hi ⊢
  generalize cwByte w = c at hi ⊢
  rcases decode_append_cases len c with
    ⟨rfl, hd⟩ | ⟨rfl, hd⟩ | ⟨rfl, hd⟩ | ⟨rfl, hd⟩ | ⟨rfl, hd⟩ | ⟨rfl, hd⟩ | ⟨_, _, hd⟩
  case inr.inr.inr.inr.inr.inr => rw [hd] at hi; cases hi
  all_goals
    obtain rfl := Decoded.command.inj (hd.symm.trans hi)
    exact ⟨len.isLt, packWord_toNat len _ _⟩

/-! ### Words of the opcode map (R84) -/

/-- Settles O3: the six legal words are encodings; the illegal ones have DIR, a reserved bit and operation code 6. -/
theorem sampleWordsDecode : Obligations.SampleWordsDecode :=
  ⟨decodeOfEncode (.ldkey 32) (by decide), decodeOfEncode (.eblk 8) (by decide), decodeOfEncode (.ldiv 8) (by decide),
   decodeOfEncode (.cfbinit 8 .encrypt) (by decide), decodeOfEncode (.cfbinit 8 .decrypt) (by decide),
   decodeOfEncode (.cfbchunk 2) (by decide), by decide, by decide, by decide⟩

/-- A mask that keeps the low byte only, and in it the bits of `m`. -/
theorem append_and_eq_iff (len c m b : Byte) : (len ++ c) &&& (0#8 ++ m) = 0#8 ++ b ↔ c &&& m = b := by
  rw [BitVec.and_append, BitVec.and_zero]
  exact ⟨fun h => by simpa only [cwByte_append] using congrArg cwByte h, fun h => by rw [h]⟩

/-- A mask that keeps the low byte whole. -/
theorem append_and_low_eq_iff (len c b : Byte) : (len ++ c) &&& (0#8 ++ 0xFF#8) = 0#8 ++ b ↔ c = b := by
  rw [append_and_eq_iff, show c &&& 0xFF#8 = c from BitVec.and_allOnes]

/-- The mask of CFBINIT's row leaves the direction bit open. -/
theorem and_cfbinit_mask_eq_iff (c : Byte) : c &&& 0xEF#8 = 0x04#8 ↔ c = 0x04#8 ∨ c = 0x14#8 := by
  revert c
  decide

theorem append_ushiftRight (len c : Byte) : ((len ++ c) >>> 8).toNat = len.toNat := by
  rw [BitVec.toNat_ushiftRight, toNat_append_add, Nat.shiftRight_eq_div_pow]
  have := c.isLt
  omega

theorem append_getLsbD_four (len c : Byte) : (len ++ c).getLsbD 4 = c.getLsbD 4 := by
  rw [BitVec.getLsbD_append, if_pos (by decide)]

/-- The words of the commands: the decoder and the encoder determine each other. -/
theorem decode_eq_command_iff (w : CommandWord) (i : Instr) : decode w = .command i ↔ i.WellFormed ∧ encode i = w := by
  constructor
  · exact encodeOfDecode w i
  · rintro ⟨hwf, rfl⟩
    exact decodeOfEncode i hwf

/-- A word decodes to the command with its own LEN exactly when its low byte is that command's. -/
theorem decode_append_eq_command_iff {len c b : Byte} {i : Instr} (hlen : i.len = len.toNat) (hword : encode i = len ++ b) :
    decode (len ++ c) = .command i ↔ c = b := by
  rw [decode_eq_command_iff, and_iff_right (show i.len < 2 ^ 8 from hlen ▸ len.isLt), hword]
  exact ⟨fun h => by simpa only [cwByte_append] using (congrArg cwByte h).symm, fun h => by rw [h]⟩

/-- The two bytes of CFBINIT's row are its byte in the direction that bit 4 gives. -/
theorem eq_cfbinit_byte_iff (c : Byte) : c = 0x04#8 ∨ c = 0x14#8 ↔
    c = 0#3 ++ (dirBit (if c.getLsbD 4 then .decrypt else .encrypt) ++ 0x4#4) := by
  revert c
  decide

/-- Settles O4: a mask reads the low byte alone, and the low byte alone decides what the word decodes to. -/
theorem decodeFollowsMasks : Obligations.DecodeFollowsMasks := by
  intro w
  rw [word_eq_append w]
  generalize cwLen w = len
  generalize cwByte w = c
  rw [append_ushiftRight, append_getLsbD_four]
  have row (b : Byte) (i : Instr) (hlen : i.len = len.toNat) (hword : encode i = len ++ b) :
      (len ++ c) &&& (0#8 ++ 0xFF#8) = 0#8 ++ b ↔ decode (len ++ c) = .command i :=
    (append_and_low_eq_iff len c b).trans (decode_append_eq_command_iff hlen hword).symm
  refine ⟨row 0x01#8 (.ldkey len.toNat) rfl (packWord_toNat ..), row 0x02#8 (.eblk len.toNat) rfl (packWord_toNat ..),
    row 0x03#8 (.ldiv len.toNat) rfl (packWord_toNat ..), ?cfbinit, row 0x05#8 (.cfbchunk len.toNat) rfl (packWord_toNat ..)⟩
  calc (len ++ c) &&& (0#8 ++ 0xEF#8) = 0#8 ++ 0x04#8
      _ ↔ c = 0x04#8 ∨ c = 0x14#8 := (append_and_eq_iff ..).trans (and_cfbinit_mask_eq_iff c)
      _ ↔ _ := eq_cfbinit_byte_iff c
      _ ↔ _ := (decode_append_eq_command_iff (i := .cfbinit len.toNat _) rfl (packWord_toNat ..)).symm

end Sys2Proof.Machine
end

section
/-! Proofs about what one step can change in the register tuple (10_state.md sections 3 and 4): the machine's invariant, and
the events that write K, IVREG, ACTIVE, MODE and ERR. Every step is one of the cases of `step_spec`. -/

namespace Sys2Proof.Machine

/-! ### The invariant (R25, R32, R35 to R37, R40) -/

/-- With both valid bits set, nothing is left unloaded. -/
theorem unloadedIsReset_of_loaded {s : State} (hkeyv : s.keyv = true) (hivv : s.ivv = true) : UnloadedIsReset s := by
  simp [UnloadedIsReset, hkeyv, hivv]

/-- Loading a key covers K and DOUT, and leaves what the IV covers as it was. -/
theorem unloadedIsReset_loadKey {s : State} (hs : UnloadedIsReset s) (words : KeyFile) :
    UnloadedIsReset (s.loadKey words) := by
  obtain ⟨_, hiv, hfb⟩ := hs
  exact ⟨fun h => absurd h.symm Bool.false_ne_true, hiv, fun h => hfb (.inr (h.resolve_left (by simp)))⟩

/-- Loading an IV covers IVREG, and leaves what the key covers as it was. -/
theorem unloadedIsReset_loadIv {s : State} (hs : UnloadedIsReset s) (iv : Block) : UnloadedIsReset (s.loadIv iv) := by
  obtain ⟨hkey, _, hfb⟩ := hs
  exact ⟨hkey, fun h => absurd h.symm Bool.false_ne_true, fun h => hfb (.inl (h.resolve_right (by simp)))⟩

/-- With a key loaded, DOUT may hold anything. -/
theorem unloadedIsReset_putBlock {s : State} (hs : UnloadedIsReset s) (hkeyv : s.keyv = true) (y : Block) :
    UnloadedIsReset (s.putBlock y) := by
  obtain ⟨_, hiv, hfb⟩ := hs
  exact ⟨fun h => absurd (hkeyv.symm.trans h) (by decide), hiv, hfb⟩

theorem unloadedIsReset_resetCore (s : State) : UnloadedIsReset s.resetCore :=
  ⟨fun _ => ⟨rfl, rfl⟩, fun _ => rfl, fun _ => ⟨rfl, rfl⟩⟩

/-- Every step keeps what is unloaded at its reset value: DOUT, FB and MODE are written only by commands that need the key, or
the key and the IV. CFBCHUNK checks ACTIVE alone, and R40 gives it both. -/
theorem step_keeps_unloadedIsReset (s t : State) (hactive : ActiveLoaded s) (hs : UnloadedIsReset s)
    (h : step s = .next t) : UnloadedIsReset t := by
  rcases step_spec h with
    ⟨_, rfl⟩ | ⟨rest, _, rfl⟩ | ⟨_, rest, _, _, rfl⟩ | ⟨_, _, rest, _, _, hwrite⟩ | ⟨_, rest, _, hcommand⟩
  case inl => exact hs
  case inr.inl => exact unloadedIsReset_resetCore _
  case inr.inr.inl => exact hs
  case inr.inr.inr.inl => rcases hwrite with ⟨_, rfl⟩ | ⟨_, rfl⟩ | ⟨_, rfl⟩ | rfl <;> exact hs
  case inr.inr.inr.inr =>
    have hs' : UnloadedIsReset (s.setPending rest) := hs
    rcases hcommand with ⟨_, _, rfl⟩ | ⟨_, _, rfl⟩ | ⟨_, _, hkeyv, rfl⟩ | ⟨_, _, rfl⟩ | ⟨_, _, hkeyv, hivv, rfl⟩ |
      ⟨_, _, _, hrun, rfl⟩
    · exact hs'
    · exact unloadedIsReset_loadKey hs' _
    · exact unloadedIsReset_putBlock hs' hkeyv _
    · exact unloadedIsReset_loadIv hs' _
    · exact unloadedIsReset_of_loaded hkeyv hivv
    · obtain ⟨hkeyv, hivv⟩ := hactive hrun
      exact unloadedIsReset_of_loaded hkeyv hivv

/-- Settles O53: R40 is kept by itself, and the reset values with its help. -/
theorem stepKeepsInv : Obligations.StepKeepsInv := by
  rintro s t ⟨hactive, hreset⟩ h
  exact ⟨step_keeps_activeLoaded s t hactive h, step_keeps_unloadedIsReset s t hactive hreset h⟩

/-- Settles O54: no transform is in progress, and nothing has been written yet. -/
theorem resetHasInv : Obligations.ResetHasInv :=
  ⟨activeLoaded_of_inactive rfl, unloadedIsReset_resetCore State.reset⟩

/-! ### What writes K and IVREG (R29, R30, R35, R36) -/

/-- What a step may do to a register that the command byte `c` loads when LEN is `n`, and to its valid bit: leave both as they
are, take the valid bit back by reset, or load the register, which ends the transform. -/
def LoadRule {α : Type} (reg : State → α) (valid : State → Bool) (c n : Byte) (s t : State) : Prop :=
  (reg t = reg s ∧ valid t = valid s) ∨
  (valid t = false ∧ ∃ rest, s.pending = .reset :: rest) ∨
  (valid t = true ∧ t.active = false ∧ ∃ rest, s.pending = .access (.write 0x38#6 c) :: rest ∧ s.len = n)

/-- Every step follows the rule for the key, loaded by LDKEY, and for the IV, loaded by LDIV. -/
theorem step_loadRule {s t : State} (h : step s = .next t) :
    LoadRule State.k State.keyv 0x01#8 32#8 s t ∧ LoadRule State.ivreg State.ivv 0x03#8 8#8 s t := by
  rcases step_spec h with
    ⟨_, rfl⟩ | ⟨rest, hp, rfl⟩ | ⟨_, _, _, _, rfl⟩ | ⟨_, _, _, _, _, hwrite⟩ | ⟨_, rest, hp, hcommand⟩
  case inl => exact ⟨.inl ⟨rfl, rfl⟩, .inl ⟨rfl, rfl⟩⟩
  case inr.inl => exact ⟨.inr (.inl ⟨rfl, rest, hp⟩), .inr (.inl ⟨rfl, rest, hp⟩)⟩
  case inr.inr.inl => exact ⟨.inl ⟨rfl, rfl⟩, .inl ⟨rfl, rfl⟩⟩
  case inr.inr.inr.inl =>
    rcases hwrite with ⟨_, rfl⟩ | ⟨_, rfl⟩ | ⟨_, rfl⟩ | rfl <;> exact ⟨.inl ⟨rfl, rfl⟩, .inl ⟨rfl, rfl⟩⟩
  case inr.inr.inr.inr =>
    rcases hcommand with ⟨_, _, rfl⟩ | ⟨rfl, hlen, rfl⟩ | ⟨_, _, _, rfl⟩ | ⟨rfl, hlen, rfl⟩ | ⟨_, _, _, _, rfl⟩ |
      ⟨_, _, _, _, rfl⟩
    case inr.inl => exact ⟨.inr (.inr ⟨rfl, rfl, rest, hp, hlen⟩), .inl ⟨rfl, rfl⟩⟩
    case inr.inr.inr.inl => exact ⟨.inl ⟨rfl, rfl⟩, .inr (.inr ⟨rfl, rfl, rest, hp, hlen⟩)⟩
    all_goals exact ⟨.inl ⟨rfl, rfl⟩, .inl ⟨rfl, rfl⟩⟩

/-- What a change of the register, a rise and a fall of its valid bit each tell of the step. -/
theorem LoadRule.changes {α : Type} {reg : State → α} {valid : State → Bool} {c n : Byte} {s t : State}
    (h : LoadRule reg valid c n s t) :
    (reg t ≠ reg s → (∃ rest, s.pending = .reset :: rest) ∨
      (∃ rest, s.pending = .access (.write 0x38#6 c) :: rest ∧ s.len = n ∧ t.active = false)) ∧
    (valid s = false → valid t = true → ∃ rest, s.pending = .access (.write 0x38#6 c) :: rest ∧ s.len = n) ∧
    (valid s = true → valid t = false → ∃ rest, s.pending = .reset :: rest) := by
  rcases h with ⟨hreg, hvalid⟩ | ⟨hvalid, hreset⟩ | ⟨hvalid, hactive, rest, hp, hlen⟩
  · simp +contextual [hreg, hvalid]
  · exact ⟨fun _ => .inl hreset, by simp [hvalid], fun _ _ => hreset⟩
  · exact ⟨fun _ => .inr ⟨rest, hp, hlen, hactive⟩, fun _ _ => ⟨rest, hp, hlen⟩, by simp [hvalid]⟩

/-- Settles O50: the rule's consequences, for the key and for the IV. -/
theorem keyAndIvChangeOnlyWhenLoaded : Obligations.KeyAndIvChangeOnlyWhenLoaded := by
  intro s t h
  obtain ⟨hkey, hiv⟩ := step_loadRule h
  obtain ⟨hk, hkeySet, hkeyClear⟩ := hkey.changes
  exact ⟨hk, hkeySet, hkeyClear, hiv.changes⟩

/-! ### What writes ACTIVE, MODE and ERR (R31, R32, R34) -/

/-- What a step does to ACTIVE and MODE: nothing, reset, a load that ends the transform, a CFBINIT that starts one in its
direction, or a partial chunk. -/
theorem step_active_mode_cases {s t : State} (h : step s = .next t) :
    (t.active = s.active ∧ t.mode = s.mode) ∨
    (∃ rest, s.pending = .reset :: rest ∧ t.active = false) ∨
    (∃ c rest, s.pending = .access (.write 0x38#6 c) :: rest ∧ (c = 0x01#8 ∨ c = 0x03#8) ∧ t.active = false ∧
      t.mode = s.mode) ∨
    (∃ c rest, s.pending = .access (.write 0x38#6 c) :: rest ∧ t.active = true ∧
      ((c = 0x04#8 ∧ t.mode = .encrypt) ∨ (c = 0x14#8 ∧ t.mode = .decrypt))) ∨
    (∃ rest, s.pending = .access (.write 0x38#6 0x05#8) :: rest ∧ s.len < 8#8 ∧ t.active = false ∧ t.mode = s.mode) := by
  rcases step_spec h with
    ⟨_, rfl⟩ | ⟨rest, hp, rfl⟩ | ⟨_, _, _, _, rfl⟩ | ⟨_, _, _, _, _, hwrite⟩ | ⟨c, rest, hp, hcommand⟩
  case inl => exact .inl ⟨rfl, rfl⟩
  case inr.inl => exact .inr (.inl ⟨rest, hp, rfl⟩)
  case inr.inr.inl => exact .inl ⟨rfl, rfl⟩
  case inr.inr.inr.inl => rcases hwrite with ⟨_, rfl⟩ | ⟨_, rfl⟩ | ⟨_, rfl⟩ | rfl <;> exact .inl ⟨rfl, rfl⟩
  case inr.inr.inr.inr =>
    rcases hcommand with ⟨_, _, rfl⟩ | ⟨hc, _, rfl⟩ | ⟨_, _, _, rfl⟩ | ⟨hc, _, rfl⟩ | ⟨d, hc, _, _, rfl⟩ |
      ⟨rfl, _, hle, hactive, rfl⟩
    · exact .inl ⟨rfl, rfl⟩
    · exact .inr (.inr (.inl ⟨c, rest, hp, .inl hc, rfl, rfl⟩))
    · exact .inl ⟨rfl, rfl⟩
    · exact .inr (.inr (.inl ⟨c, rest, hp, .inr hc, rfl, rfl⟩))
    · exact .inr (.inr (.inr (.inl ⟨c, rest, hp, rfl, hc⟩)))
    · by_cases hlen : s.len.toNat < 8
      · exact .inr (.inr (.inr (.inr ⟨rest, hp, hlen, by simp [chunkStep_active, hlen], rfl⟩)))
      · exact .inl ⟨by simp [chunkStep_active, hlen], rfl⟩

/-- Settles O51: each of the five cases against a rise of ACTIVE, a fall of it, and a change of MODE. -/
theorem activeAndModeChange : Obligations.ActiveAndModeChange := by
  intro s t h
  rcases step_active_mode_cases h with
    ⟨hactive, hmode⟩ | ⟨rest, hp, hactive⟩ | ⟨c, rest, hp, hc, hactive, hmode⟩ | ⟨c, rest, hp, hactive, hc⟩ |
      ⟨rest, hp, hlen, hactive, hmode⟩
  case inl => simp +contextual [hactive, hmode]
  case inr.inl => exact ⟨by simp [hactive], fun _ _ => ⟨rest, .inl hp⟩, fun _ => ⟨rest, .inl hp⟩⟩
  case inr.inr.inl =>
    refine ⟨by simp [hactive], fun _ _ => ⟨rest, .inr (.inr ?_)⟩, fun hne => absurd hmode hne⟩
    rcases hc with rfl | rfl
    · exact .inl hp
    · exact .inr hp
  case inr.inr.inr.inl =>
    rcases hc with ⟨rfl, hmode⟩ | ⟨rfl, hmode⟩
    · exact ⟨fun _ _ => ⟨rest, .inl hp⟩, by simp [hactive], fun _ => ⟨rest, .inr (.inl ⟨hp, hmode⟩)⟩⟩
    · exact ⟨fun _ _ => ⟨rest, .inr hp⟩, by simp [hactive], fun _ => ⟨rest, .inr (.inr ⟨hp, hmode⟩)⟩⟩
  case inr.inr.inr.inr =>
    exact ⟨by simp [hactive], fun _ _ => ⟨rest, .inr (.inl ⟨hp, hlen⟩)⟩, fun hne => absurd hmode hne⟩

/-- Settles O52: idling, a read, a fault and a write of a byte leave ERR as it is. -/
theorem onlyCommandsWriteErr : Obligations.OnlyCommandsWriteErr := by
  intro s t h hne
  rcases step_spec h with
    ⟨_, rfl⟩ | ⟨rest, hp, _⟩ | ⟨_, _, _, _, rfl⟩ | ⟨_, _, _, _, _, hwrite⟩ | ⟨c, rest, hp, _⟩
  case inl => exact absurd rfl hne
  case inr.inl => exact ⟨rest, .inl hp⟩
  case inr.inr.inl => exact absurd rfl hne
  case inr.inr.inr.inl => rcases hwrite with ⟨_, rfl⟩ | ⟨_, rfl⟩ | ⟨_, rfl⟩ | rfl <;> exact absurd rfl hne
  case inr.inr.inr.inr => exact ⟨rest, .inr ⟨c, hp⟩⟩

end Sys2Proof.Machine
end

section
/-! Proofs about the block transform and the CFB engine (40_block_cipher.md section 2, 41_cfb_mode.md). A Feistel round is
undone whatever its round function is; a CFB pass puts out `passOutput` and feeds `passFeedback` to the next. -/

namespace Sys2Proof.Machine

open Sys2Proof.Laws

/-! ### The transform is injective (G5) -/

/-- A round can be undone: the old right half is the new left one, and the same value xored in twice cancels. -/
theorem feistelRound_injective (sbox : SBox) (k : Word) : Function.Injective (feistelRound sbox k) := by
  rintro ⟨l, r⟩ ⟨l', r'⟩ h
  obtain rfl : r = r' := congrArg Halves.left h
  have hxor : roundF sbox k r ^^^ l = roundF sbox k r ^^^ l' := congrArg Halves.right h
  rw [(BitVec.xor_right_inj _).mp hxor]

theorem be32_inj {a0 a1 a2 a3 b0 b1 b2 b3 : Byte} (h : be32 a0 a1 a2 a3 = be32 b0 b1 b2 b3) :
    a0 = b0 ∧ a1 = b1 ∧ a2 = b2 ∧ a3 = b3 := by
  have hbyte (j : Fin 4) : #v[a0, a1, a2, a3][j] = #v[b0, b1, b2, b3][j] := by rw [← byteBe32_be32, h, byteBe32_be32]
  exact ⟨hbyte 0, hbyte 1, hbyte 2, hbyte 3⟩

/-- The two halves determine the block. -/
theorem blockHalves_injective : Function.Injective blockHalves := by
  intro x y h
  obtain ⟨hleft, hright⟩ := Halves.mk.inj h
  obtain ⟨h0, h1, h2, h3⟩ := be32_inj hleft
  obtain ⟨h4, h5, h6, h7⟩ := be32_inj hright
  ext j hj
  match j, hj with
  | 0, _ => rw [h0]
  | 1, _ => rw [h1]
  | 2, _ => rw [h2]
  | 3, _ => rw [h3]
  | 4, _ => rw [h4]
  | 5, _ => rw [h5]
  | 6, _ => rw [h6]
  | 7, _ => rw [h7]

theorem halvesAfter_injective (sbox : SBox) (key : KeyFile) (n : Nat) (h : n ≤ 32) :
    Function.Injective fun x => halvesAfter sbox key x n h := by
  induction n with
  | zero => exact blockHalves_injective
  | succ n ih => exact (feistelRound_injective sbox _).comp (ih (Nat.le_of_succ_le h))

/-- Settles O14: the output block gives back the last pair of halves, and every round before it can be undone. -/
theorem transformIsInjective : Obligations.TransformIsInjective := by
  intro sbox key x y h
  have hlast := congrArg blockHalves h
  rw [blockHalves_blockTransform, blockHalves_blockTransform] at hlast
  obtain ⟨hright, hleft⟩ := Halves.mk.inj hlast
  exact halvesAfter_injective sbox key 32 (Nat.le_refl _) (congrArg₂ Halves.mk hleft hright)

/-! ### CFBINIT (R142) -/

/-- Settles O18: the words by their bytes 0x04 and 0x14, and the three outcomes of CFBINIT with the key checked first. -/
theorem cfbinitResult : Obligations.CfbinitResult := by
  refine ⟨fun len => ⟨?wordEncrypt, ?wordDecrypt⟩, fun n dir s hkeyv hivv => ?starts, fun n dir s hkeyv => ?noKey,
    fun n dir s hkeyv hivv => ?noIv⟩
  case wordEncrypt => simp [commandWord_eq, decode_append, dirOfBit]
  case wordDecrypt => simp [commandWord_eq, decode_append, dirOfBit]
  case starts => rw [exec_cfbinit, execCfbinit_eq, if_pos hkeyv, if_pos hivv]; rfl
  case noKey => rw [exec_cfbinit, execCfbinit_eq, if_neg (by simp [hkeyv])]; rfl
  case noIv => rw [exec_cfbinit, execCfbinit_eq, if_pos hkeyv, if_neg (by simp [hivv])]; rfl

/-- Settles O24: the arm of CFBINIT drops the length. -/
theorem cfbinitIgnoresLen : Obligations.CfbinitIgnoresLen := by
  intro n m dir s
  rw [exec_cfbinit, exec_cfbinit]

/-! ### CFBCHUNK (R143 to R148) -/

/-- A chunk of a legal length in a transform in progress runs. -/
theorem exec_cfbchunk_runs {n : Nat} {s : State} (hpos : 1 ≤ n) (hle : n ≤ 8) (hactive : s.active = true) :
    exec (.cfbchunk n) s = .next ((chunkStep Config.sbox n s).setErr .ok) := by
  rw [exec_cfbchunk, execCfbchunk_eq, if_pos ⟨hpos, hle⟩, if_pos hactive]

/-- A chunk of a legal length outside a transform writes ERR alone. -/
theorem exec_cfbchunk_notActive {n : Nat} {s : State} (hpos : 1 ≤ n) (hle : n ≤ 8) (hactive : s.active = false) :
    exec (.cfbchunk n) s = .next (s.setErr .cfbNotActive) := by
  rw [exec_cfbchunk, execCfbchunk_eq, if_pos ⟨hpos, hle⟩, if_neg (by simp [hactive])]

/-- Settles O25: DOUT is a function of DIN, K and FB. -/
theorem chunkOutputIgnoresMode : Obligations.ChunkOutputIgnoresMode :=
  fun _ _ hpos hle hactive => ⟨_, _, exec_cfbchunk_runs hpos hle hactive, exec_cfbchunk_runs hpos hle hactive, rfl⟩

/-- The output of a chunk reads the first `n` input bytes alone. -/
theorem chunkOutput_congr {n : Nat} {din other : Block} (ks : Block)
    (h : ∀ (j : Nat) (_ : j < 8), j < n → other[j] = din[j]) : chunkOutput n other ks = chunkOutput n din ks := by
  ext j hj
  rw [chunkOutput_getElem, chunkOutput_getElem]
  split
  case isTrue hlt => rw [h j hj hlt]
  case isFalse => rfl

/-- The next feedback value reads the first `n` input bytes alone. -/
theorem nextFeedback_congr {n : Nat} {din other : Block} (mode : Direction) (out : Block)
    (h : ∀ (j : Nat) (_ : j < 8), j < n → other[j] = din[j]) :
    nextFeedback n mode other out = nextFeedback n mode din out := by
  ext j hj
  rw [nextFeedback_getElem, nextFeedback_getElem, feedbackSource_getElem, feedbackSource_getElem]
  split
  case isTrue hlt => rw [h j hj hlt]
  case isFalse => rfl

/-- Settles O26: neither DOUT nor FB reads an input byte from `n` on. -/
theorem chunkIgnoresUnusedInput : Obligations.ChunkIgnoresUnusedInput := by
  intro n s other hpos hle hactive hsame
  refine ⟨_, exec_cfbchunk_runs hpos hle hactive, (exec_cfbchunk_runs (s := { s with din := other }) hpos hle hactive).trans ?_⟩
  rw [chunkStep_eq, chunkStep_eq, chunkOutput_congr _ hsame, nextFeedback_congr _ _ hsame]
  rfl

/-- When encrypting, the feedback value is the padded output, which is padded already. -/
theorem nextFeedback_encrypt_chunkOutput (n : Nat) (din ks : Block) :
    nextFeedback n .encrypt din (chunkOutput n din ks) = chunkOutput n din ks := by
  ext j hj
  rw [nextFeedback_getElem, feedbackSource_encrypt, chunkOutput_getElem]
  split <;> rfl

/-- Settles O27: the padding byte by byte, and the feedback of an encrypting chunk. -/
theorem outputPadding : Obligations.OutputPadding := by
  intro n s hpos hle hactive
  refine ⟨_, exec_cfbchunk_runs hpos hle hactive, fun j hj hn => ?padding, fun hmode => ?feedback⟩
  case padding => rw [State.setErr_dout, chunkStep_dout_getElem, if_neg (by omega)]
  case feedback =>
    rw [State.setErr_dout, State.setErr_fb, chunkStep_eq, State.putChunk_dout, State.putChunk_fb, hmode,
      nextFeedback_encrypt_chunkOutput]

/-- Settles O28: a partial chunk clears ACTIVE, and without ACTIVE a chunk of a legal length only fails. -/
theorem partialChunkEndsTransform : Obligations.PartialChunkEndsTransform := by
  intro n s hpos hlt hactive
  have hends : ((chunkStep Config.sbox n s).setErr .ok).active = false := by
    rw [State.setErr_active, chunkStep_active, if_pos hlt]
  exact ⟨_, exec_cfbchunk_runs hpos (by omega) hactive, hends,
    fun m u hmpos hmle hu => exec_cfbchunk_notActive hmpos hmle (hu.trans hends)⟩

/-! ### The CFB transform of a stream (R141, R152, R153) -/

/-- The feedback value after one pass over what is left of a stream: the padded ciphertext chunk (R141). -/
def passFeedback (sbox : SBox) (key : KeyFile) (dir : Direction) (fb : Block) (bytes : List Byte) : Block :=
  match dir with
  | .encrypt => padBlock (passOutput sbox key fb bytes)
  | .decrypt => padBlock (bytes.take 8)

/-- One pass of R141: its output, and then the other passes from its feedback. -/
theorem cfbPasses_succ_eq (sbox : SBox) (key : KeyFile) (dir : Direction) (passes : Nat) (fb : Block) (bytes : List Byte) :
    cfbPasses sbox key dir (passes + 1) fb bytes =
      passOutput sbox key fb bytes ++
        cfbPasses sbox key dir passes (passFeedback sbox key dir fb bytes) (bytes.drop 8) := by
  cases dir with
  | encrypt => exact cfbPasses_encrypt_succ ..
  | decrypt => exact cfbPasses_decrypt_succ ..

/-- Cutting the output after 8 bytes parts the first pass from the others. -/
theorem cfbPasses_take_drop (sbox : SBox) (key : KeyFile) (dir : Direction) (passes : Nat) (fb : Block)
    (bytes : List Byte) :
    (cfbPasses sbox key dir (passes + 1) fb bytes).take 8 = passOutput sbox key fb bytes ∧
    (cfbPasses sbox key dir (passes + 1) fb bytes).drop 8 =
      cfbPasses sbox key dir passes (passFeedback sbox key dir fb bytes) (bytes.drop 8) := by
  rw [cfbPasses_succ_eq]
  exact take_drop_append_chunk (by rw [length_passOutput]; exact Nat.min_le_left ..)
    (length_passOutput_eq_or_rest_eq_nil ..)

/-- Settles O31: a stream that is not empty has a first pass, which starts from the IV. -/
theorem firstChunk : Obligations.FirstChunk := by
  intro sbox key iv dir bytes
  cases bytes with
  | nil => rfl
  | cons first rest =>
    rw [cfbTransform, List.length_cons, cfbPassCount_pos (Nat.succ_pos _)]
    exact (cfbPasses_take_drop ..).1

/-- A pass over at least a whole chunk does not see what follows the chunk. -/
theorem passOutput_append (sbox : SBox) (key : KeyFile) (fb : Block) {a : List Byte} (b : List Byte) (h : 8 ≤ a.length) :
    passOutput sbox key fb (a ++ b) = passOutput sbox key fb a := by
  rw [← passOutput_take, List.take_append_of_le_length h, passOutput_take]

theorem passFeedback_append (sbox : SBox) (key : KeyFile) (dir : Direction) (fb : Block) {a : List Byte} (b : List Byte)
    (h : 8 ≤ a.length) : passFeedback sbox key dir fb (a ++ b) = passFeedback sbox key dir fb a := by
  cases dir with
  | encrypt => exact congrArg padBlock (passOutput_append sbox key fb b h)
  | decrypt => exact congrArg padBlock (List.take_append_of_le_length h)

/-- The first `k` passes over `k` full chunks give the same bytes whatever follows them. -/
theorem cfbPasses_append_take (sbox : SBox) (key : KeyFile) (dir : Direction) (k more : Nat) (fb : Block)
    (a b : List Byte) (h : a.length = 8 * k) :
    (cfbPasses sbox key dir (k + more) fb (a ++ b)).take (8 * k) = cfbPasses sbox key dir k fb a := by
  induction k generalizing fb a with
  | zero => simp
  | succ k ih =>
    have hchunk : 8 ≤ a.length := by omega
    have hout : (passOutput sbox key fb a).length = 8 := by rw [length_passOutput]; omega
    rw [Nat.succ_add, cfbPasses_succ_eq, cfbPasses_succ_eq, passOutput_append _ _ _ _ hchunk,
      passFeedback_append _ _ _ _ _ hchunk, List.drop_append_of_le_length hchunk, Nat.mul_succ, Nat.add_comm (8 * k) 8,
      ← hout, List.take_length_add_append, hout, ih _ _ (by rw [List.length_drop]; omega)]

/-- Settles O32: the full chunks are the first passes of the longer stream. -/
theorem fullChunksAlone : Obligations.FullChunksAlone := by
  intro sbox key iv dir a b hfull
  obtain ⟨k, hk⟩ : ∃ k, a.length = 8 * k := ⟨a.length / 8, by omega⟩
  have hpasses : cfbPassCount a.length = k := by unfold cfbPassCount; omega
  have hpasses' : cfbPassCount (a ++ b).length = k + cfbPassCount b.length := by
    rw [List.length_append]
    unfold cfbPassCount
    omega
  rw [cfbTransform, cfbTransform, hpasses, hpasses', hk]
  exact cfbPasses_append_take sbox key dir k _ iv a b hk

/-- When decrypting, the passes after pass `p` start from input chunk `p`, whatever came before it (R152). -/
theorem cfbPasses_decrypt_drop (sbox : SBox) (key : KeyFile) (p passes : Nat) (fb : Block) (bytes : List Byte) :
    (cfbPasses sbox key .decrypt (p + 1 + passes) fb bytes).drop (8 * (p + 1)) =
      cfbPasses sbox key .decrypt passes (padBlock ((bytes.drop (8 * p)).take 8)) (bytes.drop (8 * (p + 1))) := by
  induction p generalizing fb bytes with
  | zero =>
    rw [Nat.zero_add, Nat.add_comm 1 passes]
    exact (cfbPasses_take_drop ..).2
  | succ p ih =>
    rw [show p + 1 + 1 + passes = p + 1 + passes + 1 by omega, show 8 * (p + 1 + 1) = 8 + 8 * (p + 1) by omega,
      ← List.drop_drop, (cfbPasses_take_drop ..).2, ih, List.drop_drop, List.drop_drop,
      show 8 + 8 * p = 8 * (p + 1) by omega]

/-- Settles O33: pass `p + 1` is the first after input chunk `p`, and its byte `j` is an input byte xor a keystream byte. -/
theorem decryptKeystream : Obligations.DecryptKeystream := by
  intro sbox key iv bytes p j hj hlt
  obtain ⟨passes, hpasses⟩ : ∃ passes, cfbPassCount bytes.length = p + 1 + (passes + 1) :=
    ⟨cfbPassCount bytes.length - (p + 2), by unfold cfbPassCount; omega⟩
  set rest := bytes.drop (8 * (p + 1)) with hrest
  have hinput : bytes[8 * (p + 1) + j]? = rest[j]? := by rw [hrest, List.getElem?_drop]
  have houtput : (cfbTransform sbox key iv .decrypt bytes)[8 * (p + 1) + j]? =
      (passOutput sbox key (padBlock ((bytes.drop (8 * p)).take 8)) rest)[j]? := by
    rw [cfbTransform, hpasses, ← List.getElem?_drop, cfbPasses_decrypt_drop, ← (cfbPasses_take_drop ..).1,
      List.getElem?_take_of_lt hj]
  rw [houtput, hinput]
  have hj' : j < rest.length := by rw [hrest, List.length_drop]; omega
  simp [passOutput, hj, hj']

end Sys2Proof.Machine
end

section
/-! Proofs about host reads, and about what a write or a command leaves unchanged in the window (20_memory.md, 10_state.md). A
read is the one line of `hostRead` for the register that `regAt` gives at its offset. -/

namespace Sys2Proof.Machine

open Sys2Proof.Laws

/-! ### Host reads (R54, R171) -/

theorem regAt_dout {j : Nat} (h : j < 8) : regAt (BitVec.ofNat 6 (0x30 + j)) = .dout ⟨j, h⟩ := by
  have hoff : (BitVec.ofNat 6 (0x30 + j)).toNat = 0x30 + j := Nat.mod_eq_of_lt (by omega)
  simp (disch := omega) only [regAt, hoff, dif_pos, dif_neg, Nat.add_sub_cancel_left]

/-- ERR is at offset 0x3B (R52). -/
theorem regAt_err : regAt 0x3B#6 = .err := by decide

theorem hostRead_ivbuf {j : Nat} (h : j < 8) (s : State) : hostRead (BitVec.ofNat 6 (0x20 + j)) s = .ok s.ivbuf[j] := by
  rw [hostRead, regAt_ivbuf h]
  rfl

theorem hostRead_din {j : Nat} (h : j < 8) (s : State) : hostRead (BitVec.ofNat 6 (0x28 + j)) s = .ok s.din[j] := by
  rw [hostRead, regAt_din h]
  rfl

theorem hostRead_dout {j : Nat} (h : j < 8) (s : State) : hostRead (BitVec.ofNat 6 (0x30 + j)) s = .ok s.dout[j] := by
  rw [hostRead, regAt_dout h]
  rfl

theorem hostRead_len (s : State) : hostRead 0x39#6 s = .ok s.len := by
  rw [hostRead, regAt_len]

theorem hostRead_err (s : State) : hostRead 0x3B#6 s = .ok (errByte s.err) := by
  rw [hostRead, regAt_err]

/-- A successful read changes what the host has learned and nothing else. -/
theorem access_read_frame {off : Offset} {s t : State} (h : access (.read off) s = .next t) :
    t = { s with observed := t.observed } := by
  rcases access_cases h with ⟨_, _, _, _, rfl⟩ | ⟨_, _, hread, _⟩
  · rfl
  · cases hread

/-- Settles O36: the readable registers by their rows, the others by what is not readable, and the frame of a read. -/
theorem hostReads : Obligations.HostReads := by
  intro s
  refine ⟨fun j h => hostRead_ivbuf h s, fun j h => hostRead_din h s, fun j h => hostRead_dout h s, hostRead_len s,
    hostRead_status s, hostRead_err s, fun off h => ?faults, fun off t => access_read_frame⟩
  case faults =>
    have hoff : off.toNat < 0x20 ∨ off.toNat = 0x38 ∨ (0x3C ≤ off.toNat ∧ off.toNat ≤ 0x3F) := by bv_omega
    exact hostRead_error_iff.mpr ⟨(regAt_not_readable_iff off).mpr hoff, rfl⟩

/-- Settles O41: the table, and each code below 8. -/
theorem errorCodes : Obligations.ErrorCodes := by
  refine ⟨rfl, rfl, rfl, rfl, rfl, rfl, rfl, rfl, fun s => ⟨errByte s.err, hostRead_err s, ?_⟩⟩
  cases s.err <;> decide

/-- A read depends only on the register at its offset, and of the write-only ones on none. -/
theorem hostRead_congr {off : Offset} {s t : State} (hivbuf : ∀ j, regAt off = .ivbuf j → t.ivbuf[j] = s.ivbuf[j])
    (hdin : ∀ j, regAt off = .din j → t.din[j] = s.din[j]) (hdout : ∀ j, regAt off = .dout j → t.dout[j] = s.dout[j])
    (hlen : regAt off = .len → t.len = s.len) (hstatus : regAt off = .status → statusByte t = statusByte s)
    (herr : regAt off = .err → t.err = s.err) : hostRead off t = hostRead off s := by
  unfold hostRead
  cases hreg : regAt off with
  | ivbuf j => exact congrArg Except.ok (hivbuf j hreg)
  | din j => exact congrArg Except.ok (hdin j hreg)
  | dout j => exact congrArg Except.ok (hdout j hreg)
  | len => exact congrArg Except.ok (hlen hreg)
  | status => exact congrArg Except.ok (hstatus hreg)
  | err => exact congrArg (Except.ok ∘ errByte) (herr hreg)
  | keybuf | cmd | unmapped => rfl

/-- Settles O42: the four are not among the registers a read depends on. -/
theorem readsHideSecrets : Obligations.ReadsHideSecrets :=
  fun _ _ _ _ _ _ => hostRead_congr (fun _ _ => rfl) (fun _ _ => rfl) (fun _ _ => rfl) (fun _ => rfl) (fun _ => rfl)
    (fun _ => rfl)

/-! ### A read after a write (R60) -/

/-- A write of one offset, other than CMD, leaves what every other offset reads as. -/
theorem hostRead_hostWrite_ne {off other : Offset} {v : Byte} {s t : State} (hcmd : off ≠ 0x38#6) (hne : other ≠ off)
    (h : hostWrite off v s = .next t) : hostRead other t = hostRead other s := by
  have apart (hmapped : regAt off ≠ .unmapped) : regAt other ≠ regAt off :=
    fun hsame => hne (regAt_injective hsame.symm hmapped).symm
  rcases hostWrite_cases h with ⟨_, _, rfl⟩ | ⟨j, hr, rfl⟩ | ⟨j, hr, rfl⟩ | ⟨hr, rfl⟩ | ⟨hr, _⟩
  case inl =>
    exact hostRead_congr (fun _ _ => rfl) (fun _ _ => rfl) (fun _ _ => rfl) (fun _ => rfl) (fun _ => rfl) (fun _ => rfl)
  case inr.inl =>
    refine hostRead_congr (fun i hi => ?_) (fun _ _ => rfl) (fun _ _ => rfl) (fun _ => rfl) (fun _ => rfl) (fun _ => rfl)
    have hij : j ≠ i := fun e => apart (by simp [hr]) (by rw [hi, hr, e])
    exact Vector.getElem_set_ne j.isLt i.isLt (Fin.val_ne_of_ne hij)
  case inr.inr.inl =>
    refine hostRead_congr (fun _ _ => rfl) (fun i hi => ?_) (fun _ _ => rfl) (fun _ => rfl) (fun _ => rfl) (fun _ => rfl)
    have hij : j ≠ i := fun e => apart (by simp [hr]) (by rw [hi, hr, e])
    exact Vector.getElem_set_ne j.isLt i.isLt (Fin.val_ne_of_ne hij)
  case inr.inr.inr.inl =>
    exact hostRead_congr (fun _ _ => rfl) (fun _ _ => rfl) (fun _ _ => rfl)
      (fun hlen => absurd (hlen.trans hr.symm) (apart (by simp [hr]))) (fun _ => rfl) (fun _ => rfl)
  case inr.inr.inr.inr => exact absurd (regAt_eq_cmd.mp hr) hcmd

/-- A written byte that can be read reads as the value written. -/
theorem hostRead_hostWrite_same {off : Offset} {v old : Byte} {s t : State} (hcmd : off ≠ 0x38#6)
    (h : hostWrite off v s = .next t) (hold : hostRead off s = .ok old) : hostRead off t = .ok v := by
  rcases hostWrite_cases h with ⟨j, hr, rfl⟩ | ⟨j, hr, rfl⟩ | ⟨j, hr, rfl⟩ | ⟨hr, rfl⟩ | ⟨hr, _⟩
  · rw [hostRead, hr] at hold
    cases hold
  · rw [hostRead, hr]
    exact congrArg Except.ok (Vector.getElem_set_self _)
  · rw [hostRead, hr]
    exact congrArg Except.ok (Vector.getElem_set_self _)
  · rw [hostRead, hr]
  · exact absurd (regAt_eq_cmd.mp hr) hcmd

/-- Settles O39: the offset written, and the others. -/
theorem readAfterWrite : Obligations.ReadAfterWrite :=
  fun _ _ _ _ hcmd h => ⟨fun _ => hostRead_hostWrite_same hcmd h, fun _ hne => hostRead_hostWrite_ne hcmd hne h⟩

/-! ### What a command leaves in the window (R22 to R25, R27) -/

/-- No command writes KEYBUF, IVBUF, DIN or LEN. -/
theorem exec_frame {i : Instr} {s t : State} (h : exec i s = .next t) :
    t.keybuf = s.keybuf ∧ t.ivbuf = s.ivbuf ∧ t.din = s.din ∧ t.len = s.len := by
  rcases exec_cases h with
    ⟨_, _, rfl⟩ | ⟨_, rfl⟩ | ⟨_, _, rfl⟩ | ⟨_, rfl⟩ | ⟨_, _, _, _, _, rfl⟩ | ⟨_, _, _, _, _, rfl⟩ <;>
  exact ⟨rfl, rfl, rfl, rfl⟩

/-- Only EBLK and CFBCHUNK write DOUT. -/
theorem exec_dout {i : Instr} {s t : State} (h : exec i s = .next t) (heblk : ∀ n, i ≠ .eblk n)
    (hchunk : ∀ n, i ≠ .cfbchunk n) : t.dout = s.dout := by
  rcases exec_cases h with ⟨_, _, rfl⟩ | ⟨_, rfl⟩ | ⟨hi, _⟩ | ⟨_, rfl⟩ | ⟨_, _, _, _, _, rfl⟩ | ⟨_, hi, _⟩
  case inr.inr.inl => exact absurd hi (heblk 8)
  case inr.inr.inr.inr.inr => exact absurd hi (hchunk _)
  all_goals rfl

/-- The issue of a command writes none of the host's own buffers, its command being legal or not. -/
theorem issueCommand_frame {c : Byte} {s t : State} (h : issueCommand c s = .next t) :
    t.keybuf = s.keybuf ∧ t.ivbuf = s.ivbuf ∧ t.din = s.din ∧ t.len = s.len := by
  rcases issueCommand_cases h with ⟨_, _, rfl⟩ | ⟨_, _, hexec⟩
  · exact ⟨rfl, rfl, rfl, rfl⟩
  · exact exec_frame hexec

/-- The low byte of a legal word is the one its command is written with. -/
theorem eq_cwByte_of_decode {len c : Byte} {i : Instr} (h : decode (commandWord len c) = .command i) :
    c = cwByte (encode i) := by
  obtain ⟨_, hword⟩ := encodeOfDecode _ i h
  rw [hword, commandWord_eq, cwByte_append]

/-- The bytes 0x02 and 0x05 alone issue a command that writes DOUT. -/
theorem issueCommand_dout {c : Byte} {s t : State} (h : issueCommand c s = .next t) (h2 : c ≠ 0x02#8) (h5 : c ≠ 0x05#8) :
    t.dout = s.dout := by
  rcases issueCommand_cases h with ⟨_, _, rfl⟩ | ⟨i, hi, hexec⟩
  · rfl
  · have hc := eq_cwByte_of_decode hi
    refine exec_dout hexec (fun n hn => h2 ?_) (fun n hn => h5 ?_)
    · rw [hc, hn]
      exact packWord_low n 0#1 0x2#4
    · rw [hc, hn]
      exact packWord_low n 0#1 0x5#4

/-- The offsets below DOUT, those above ERR, CMD and LEN hold registers that no command writes. -/
theorem regAt_not_result {off : Offset} (h : off.toNat < 0x30 ∨ 0x3C ≤ off.toNat ∨ off = 0x38#6 ∨ off = 0x39#6) :
    (∀ j, regAt off ≠ .dout j) ∧ regAt off ≠ .status ∧ regAt off ≠ .err := by
  revert off
  decide

/-- The offsets of DOUT hold DOUT. -/
theorem regAt_dout_range {off : Offset} (hlow : 0x30 ≤ off.toNat) (hhigh : off.toNat < 0x38) : ∃ j, regAt off = .dout j := by
  revert off
  decide

/-- Settles O23: the frame of a command, read through the window. -/
theorem commandWindowFrame : Obligations.CommandWindowFrame := by
  intro c s t h
  obtain ⟨hkeybuf, hivbuf, hdin, hlen⟩ := issueCommand_frame h
  refine ⟨hkeybuf, fun off hoff => ?inputs, fun h2 h5 off hlow hhigh => ?output⟩
  case inputs =>
    obtain ⟨hnoDout, hnoStatus, hnoErr⟩ := regAt_not_result hoff
    exact hostRead_congr (fun _ _ => by rw [hivbuf]) (fun _ _ => by rw [hdin]) (fun j hj => absurd hj (hnoDout j))
      (fun _ => hlen) (fun hj => absurd hj hnoStatus) (fun hj => absurd hj hnoErr)
  case output =>
    obtain ⟨j, hreg⟩ := regAt_dout_range hlow hhigh
    rw [hostRead, hostRead, hreg]
    exact congrArg (fun d : Block => Except.ok d[j]) (issueCommand_dout h h2 h5)

end Sys2Proof.Machine
end

section
/-! Proofs about single steps and about the observation of a program (30_encoding.md sections 1 and 4, 70_reset_and_hazards.md).
A step is `serve` of the next host event; each kind of event has its equation for `step`. -/

namespace Sys2Proof.Machine

open Sys2Proof.Laws

/-! ### The step of each host event (R60, R80, R172, R190, R200) -/

/-- The next host event is served from the state without it. -/
theorem step_of_pending {e : HostEvent} {rest : List HostEvent} {s : State} (h : s.pending = e :: rest) :
    step s = serve e (s.setPending rest) := by
  rw [step, serveNext, h]

/-- An access that does not fault is the step. -/
theorem step_of_access_next {a : Access} {rest : List HostEvent} {s t : State} (hp : s.pending = .access a :: rest)
    (h : access a (s.setPending rest) = .next t) : step s = .next t := by
  rw [step_of_pending hp, serve, h]

/-- An access that faults leaves its record with the host. -/
theorem step_of_access_fault {a : Access} {rest : List HostEvent} {s : State} {f : Fault}
    (hp : s.pending = .access a :: rest) (h : access a (s.setPending rest) = .fault f) :
    step s = .next ((s.setPending rest).observe (.busError a)) := by
  rw [step_of_pending hp, serve, h]
  rfl

/-- A read leaves what it records with the host, be it a byte or BusError (R89). -/
theorem step_of_read {off : Offset} {rest : List HostEvent} {s : State} (hp : s.pending = .access (.read off) :: rest) :
    step s = .next ((s.setPending rest).observe (readRecord off (s.setPending rest))) := by
  rcases hostRead_cases off (s.setPending rest) with ⟨v, hv⟩ | hf
  · rw [readRecord, hv]
    exact step_of_access_next hp (by rw [access, hv])
  · rw [readRecord, hf]
    exact step_of_access_fault hp (by rw [access, hf])

/-- Issuing a word that decodes to a command runs the command. -/
theorem issueCommand_of_decode {c : Byte} {i : Instr} {s : State} (h : decode (s.len ++ c) = .command i) :
    issueCommand c s = exec i s := by
  rw [issueCommand, commandWord_eq, h]

/-- A write to CMD issues a command. -/
theorem hostWrite_cmd (c : Byte) (s : State) : hostWrite 0x38#6 c s = issueCommand c s := by
  rw [hostWrite, regAt_cmd]

/-- A write to CMD is, as a step, the issue of its command. -/
theorem step_of_cmd {c : Byte} {rest : List HostEvent} {s : State} (hp : s.pending = .access (.write 0x38#6 c) :: rest) :
    step s = issueCommand c (s.setPending rest) := by
  obtain ⟨t, ht, _⟩ := checkOrder c (s.setPending rest)
  rw [ht]
  exact step_of_access_next hp (by rw [access, hostWrite_cmd, ht])

/-- Settles O38: the fault of `access` is the record of `step`. -/
theorem busErrorChangesNothing : Obligations.BusErrorChangesNothing :=
  fun _ _ _ _ hp h => step_of_access_fault hp h

/-- Settles O43: the CMD write issues the word, and the word decodes to the command. -/
theorem stepRunsCommand : Obligations.StepRunsCommand :=
  fun _ _ _ _ hp hd => (step_of_cmd hp).trans (issueCommand_of_decode hd)

/-- Settles O44: the host's two bytes are the two halves of the fetched word. -/
theorem fetchWordRuns : Obligations.FetchWordRuns := by
  intro nbits w i s h
  have hd : decode (tableWord nbits w) = .command i := by
    unfold decodeTableWord at h
    split at h
    · rw [← Option.some.inj h, ‹decode _ = _›]
    · cases h
  rw [word_eq_append (tableWord nbits w)] at hd
  exact stepRunsCommand _ i s.pending (s.withFetchWord nbits w) rfl hd

/-- Settles O46: with nothing pending there is nothing to serve. -/
theorem idleKeepsState : Obligations.IdleKeepsState := by
  intro s hp
  rw [step, serveNext, hp]

/-- Settles O47: a reset event is served by `resetCore`. -/
theorem resetStep : Obligations.ResetStep :=
  fun _ _ hp => step_of_pending hp

/-- Settles O48: the reset state, register by register. -/
theorem resetValues : Obligations.ResetValues :=
  ⟨rfl, rfl, rfl, rfl, rfl, rfl, rfl, rfl, rfl, rfl⟩

/-- Settles O49: with KEYV and ACTIVE at zero each command fails, the length being checked first. -/
theorem commandsAfterReset : Obligations.CommandsAfterReset := by
  obtain ⟨eblkWord, _, eblkBadLength, eblkNoKey, _⟩ := eblkResult
  obtain ⟨cfbinitWord, _, cfbinitNoKey, _⟩ := cfbinitResult
  obtain ⟨cfbchunkWord, _, cfbchunkBadLength, cfbchunkNotActive, _⟩ := cfbchunkResult
  intro len
  have issue {c : Byte} {i : Instr} (hd : decode (commandWord len c) = .command i) :
      issueCommand c { State.reset with len := len } = exec i { State.reset with len := len } := issueCommand_of_decode hd
  refine ⟨?eblk, ?cfbinitEncrypt, ?cfbinitDecrypt, ?cfbchunk⟩
  case eblk =>
    rw [issue (eblkWord len)]
    split
    case isTrue hlen => rw [hlen]; exact eblkNoKey _ rfl
    case isFalse hlen => exact eblkBadLength _ _ (by bv_omega)
  case cfbinitEncrypt => exact (issue (cfbinitWord len).1).trans (cfbinitNoKey _ _ _ rfl)
  case cfbinitDecrypt => exact (issue (cfbinitWord len).2).trans (cfbinitNoKey _ _ _ rfl)
  case cfbchunk =>
    rw [issue (cfbchunkWord len)]
    split
    case isTrue hlen => exact cfbchunkBadLength _ _ (by bv_omega)
    case isFalse hlen => exact cfbchunkNotActive _ _ (by bv_omega) (by bv_omega) rfl

/-! ### No step stops the machine (R213) -/

/-- A host write faults or answers a next state. -/
theorem hostWrite_not_refused (off : Offset) (v : Byte) (s : State) (r : Refusal) : hostWrite off v s ≠ .refused r := by
  unfold hostWrite
  cases regAt off with
  | cmd =>
    obtain ⟨t, ht, _⟩ := checkOrder v s
    simp [ht]
  | _ => simp

/-- The step of a host write answers a next state, whether the write faults or not. -/
theorem step_of_write {off : Offset} {v : Byte} {rest : List HostEvent} {s : State}
    (hp : s.pending = .access (.write off v) :: rest) :
    (∃ t, hostWrite off v (s.setPending rest) = .next t ∧ step s = .next t) ∨
      step s = .next ((s.setPending rest).observe (.busError (.write off v))) := by
  cases h : hostWrite off v (s.setPending rest) with
  | next t => exact .inl ⟨t, rfl, step_of_access_next hp h⟩
  | fault f => exact .inr (step_of_access_fault hp h)
  | refused r => exact absurd h (hostWrite_not_refused _ _ _ r)

/-- Settles O45: every command completes, and so does every event the host can issue. -/
theorem everyStepCompletes : Obligations.EveryStepCompletes := by
  refine ⟨fun i s => ?command, fun s => ?step⟩
  case command =>
    obtain ⟨t, ht, _⟩ := exec_completes i s
    exact ⟨t, ht⟩
  case step =>
    cases hp : s.pending with
    | nil => exact ⟨s, idleKeepsState s hp⟩
    | cons e rest =>
      cases e with
      | reset => exact ⟨_, resetStep rest s hp⟩
      | access a =>
        cases a with
        | read off => exact ⟨_, step_of_read hp⟩
        | write off v =>
          rcases step_of_write hp with ⟨t, _, ht⟩ | ht
          · exact ⟨t, ht⟩
          · exact ⟨_, ht⟩

/-! ### What a program observes (R89, R91) -/

/-- Every step takes the next event off, and leaves the later ones. -/
theorem step_pending {s t : State} (h : step s = .next t) : t.pending = s.pending.tail := by
  rcases step_spec h with
    ⟨hp, rfl⟩ | ⟨rest, hp, rfl⟩ | ⟨_, rest, _, hp, rfl⟩ | ⟨_, _, rest, hp, _, hwrite⟩ | ⟨_, rest, hp, hcommand⟩
  case inl => rw [hp]; rfl
  case inr.inl => rw [hp]; rfl
  case inr.inr.inl => rw [hp]; rfl
  case inr.inr.inr.inl => rcases hwrite with ⟨_, rfl⟩ | ⟨_, rfl⟩ | ⟨_, rfl⟩ | rfl <;> rw [hp] <;> rfl
  case inr.inr.inr.inr =>
    rcases hcommand with ⟨_, _, rfl⟩ | ⟨_, _, rfl⟩ | ⟨_, _, _, rfl⟩ | ⟨_, _, rfl⟩ | ⟨_, _, _, _, rfl⟩ |
      ⟨_, _, _, _, rfl⟩ <;> rw [hp] <;> rfl

/-- What a read records is the program's, its byte or its BusError. -/
theorem readRecord_ofRead (off : Offset) (s : State) : (readRecord off s).ofRead = true := by
  unfold readRecord
  split <;> rfl

/-- What a read records does not depend on the events to come. -/
theorem readRecord_setPending (off : Offset) (s : State) (events : List HostEvent) :
    readRecord off (s.setPending events) = readRecord off s := by
  have hread : hostRead off (s.setPending events) = hostRead off s :=
    hostRead_congr (fun _ _ => rfl) (fun _ _ => rfl) (fun _ _ => rfl) (fun _ => rfl) (fun _ => rfl) (fun _ => rfl)
  rw [readRecord, hread, readRecord]

/-- A read adds its record to the program's observation. -/
theorem programObservation_of_read {off : Offset} {rest : List HostEvent} {s : State}
    (hp : s.pending = .access (.read off) :: rest) :
    ∃ t, step s = .next t ∧ t.programObservation = s.programObservation ++ [readRecord off s] := by
  refine ⟨_, step_of_read hp, ?_⟩
  rw [State.observe_programObservation, readRecord_ofRead, readRecord_setPending]
  rfl

/-- A write adds nothing to the program's observation, also when it faults or issues a command. -/
theorem programObservation_of_write {off : Offset} {v : Byte} {rest : List HostEvent} {s : State}
    (hp : s.pending = .access (.write off v) :: rest) :
    ∃ t, step s = .next t ∧ t.programObservation = s.programObservation := by
  rcases step_of_write hp with ⟨t, hw, ht⟩ | ht
  · exact ⟨t, ht, State.programObservation_congr ((hostWrite_observed hw).trans (State.setPending_observed s rest))⟩
  · exact ⟨_, ht, by simp [Observation.ofRead]⟩

/-- Settles O58: a read, a write and a reset. -/
theorem rdObservations : Obligations.RdObservations :=
  ⟨fun _ _ _ hp => programObservation_of_read hp, fun _ _ _ _ hp => programObservation_of_write hp,
   fun rest s hp => ⟨_, resetStep rest s hp, rfl⟩⟩

/-- The reads among some accesses. -/
def readsOf (accesses : List Access) : List Access :=
  accesses.filter fun a => match a with | .read _ => true | .write _ _ => false

/-- A run over some accesses serves them all and records one entry for each read. -/
theorem reaches_accesses (accesses : List Access) (rest : List HostEvent) (s : State)
    (hp : s.pending = accesses.map .access ++ rest) :
    ∃ t, Reaches accesses.length s t ∧ t.pending = rest ∧ ∃ recorded : List Observation,
      t.programObservation = s.programObservation ++ recorded ∧ recorded.length = (readsOf accesses).length := by
  induction accesses generalizing s with
  | nil => exact ⟨s, reaches_zero.mpr rfl, hp, [], (List.append_nil _).symm, rfl⟩
  | cons a accesses ih =>
    have first : ∃ u, step s = .next u ∧ ∃ recorded : List Observation,
        u.programObservation = s.programObservation ++ recorded ∧ recorded.length = (readsOf [a]).length := by
      cases a with
      | read off =>
        obtain ⟨u, hu, hobs⟩ := programObservation_of_read hp
        exact ⟨u, hu, _, hobs, rfl⟩
      | write off v =>
        obtain ⟨u, hu, hobs⟩ := programObservation_of_write hp
        exact ⟨u, hu, [], by rw [hobs, List.append_nil], rfl⟩
    obtain ⟨u, hu, recorded, hobs, hlen⟩ := first
    obtain ⟨t, ht, hrest, recorded', hobs', hlen'⟩ := ih u (by rw [step_pending hu, hp]; rfl)
    refine ⟨t, reaches_succ.mpr ⟨u, hu, ht⟩, hrest, recorded ++ recorded', by rw [hobs', hobs, List.append_assoc], ?_⟩
    rw [List.length_append, hlen, hlen', ← List.length_append, readsOf, readsOf, ← List.filter_append]
    rfl

/-- Settles O59: a program is the accesses it expands to. -/
theorem programObservation : Obligations.ProgramObservation :=
  fun p rest s hp => reaches_accesses (expandProgram p) rest s hp

end Sys2Proof.Machine
end

section
/-! The proof that the host's command sequence for a stream computes the CFB transform (41_cfb_mode.md rule R149). A run is
followed access by access: the writes to DIN fill in the chunk, CFBCHUNK makes one pass of R141, the reads of DOUT give its output
to the host. The passes are then put together by induction. -/

namespace Sys2Proof.Machine

open Sys2Proof.Laws

/-! ### Runs in which every step ends with ERR = OK -/

/-- A run of `n` steps from `s` to `t` after each of which ERR is OK. -/
def RunsOk : Nat → State → State → Prop
  | 0, s, t => s = t
  | n + 1, s, t => ∃ u, step s = .next u ∧ u.err = .ok ∧ RunsOk n u t

theorem runsOk_one {s t : State} (h : step s = .next t) (hok : t.err = .ok) : RunsOk 1 s t := ⟨t, h, hok, rfl⟩

theorem RunsOk.trans {m n : Nat} {s t u : State} (h : RunsOk m s t) (h' : RunsOk n t u) : RunsOk (m + n) s u := by
  induction m generalizing s with
  | zero =>
    obtain rfl : s = t := h
    rwa [Nat.zero_add]
  | succ m ih =>
    obtain ⟨v, hv, hok, hrun⟩ := h
    rw [Nat.succ_add]
    exact ⟨v, hv, hok, ih hrun⟩

theorem RunsOk.reaches {n : Nat} {s t : State} (h : RunsOk n s t) : Reaches n s t := by
  induction n generalizing s with
  | zero => exact reaches_zero.mpr h
  | succ n ih =>
    obtain ⟨u, hu, _, hrun⟩ := h
    exact reaches_succ.mpr ⟨u, hu, ih hrun⟩

/-- Each step of the run, counted from one, ends with ERR = OK. -/
theorem RunsOk.err_ok {n : Nat} {s t : State} (h : RunsOk n s t) (m : Nat) (hpos : 1 ≤ m) (hle : m ≤ n) :
    ∃ u, Reaches m s u ∧ u.err = .ok := by
  induction m generalizing n s with
  | zero => omega
  | succ m ih =>
    obtain ⟨n, rfl⟩ : ∃ k, n = k + 1 := ⟨n - 1, by omega⟩
    obtain ⟨v, hv, hok, hrun⟩ := h
    rcases Nat.eq_zero_or_pos m with rfl | hm
    · exact ⟨v, reaches_succ.mpr ⟨v, hv, reaches_zero.mpr rfl⟩, hok⟩
    · obtain ⟨u, hu, huok⟩ := ih hrun hm (by omega)
      exact ⟨u, reaches_succ.mpr ⟨v, hv, hu⟩, huok⟩

/-! ### The accesses of one chunk -/

/-- The host events of some accesses. -/
abbrev eventsOf (accesses : List Access) : List HostEvent := accesses.map .access

theorem length_writeBytes (off : Nat) (bytes : List Byte) : (writeBytes off bytes).length = bytes.length := by
  rw [writeBytes_eq_ofFn off bytes rfl, List.length_ofFn]

theorem length_readBytes (off n : Nat) : (readBytes off n).length = n := by
  rw [readBytes_eq_ofFn, List.length_ofFn]

theorem hostWrite_din {j : Nat} (h : j < 8) (v : Byte) (s : State) :
    hostWrite (BitVec.ofNat 6 (0x28 + j)) v s = .next { s with din := s.din.set j v } := by
  rw [hostWrite, regAt_din h]

theorem hostWrite_len (v : Byte) (s : State) : hostWrite 0x39#6 v s = .next { s with len := v } := by
  rw [hostWrite, regAt_len]

/-- The writes of `bytes` to DIN from byte `j` on: they fill in those bytes and leave the ones before them. -/
theorem runsOk_writeDin (bytes : List Byte) (j : Nat) (rest : List HostEvent) (s : State) (hfit : j + bytes.length ≤ 8)
    (hok : s.err = .ok) (hp : s.pending = eventsOf (writeBytes (0x28 + j) bytes) ++ rest) :
    ∃ din : Block, RunsOk bytes.length s { s with din := din, pending := rest } ∧
      (∀ (i : Nat) (_ : i < 8), i < j → din[i] = s.din[i]) ∧
      (∀ (i : Nat) (_ : i < 8), j ≤ i → i < j + bytes.length → din[i] = bytes.getD (i - j) 0#8) := by
  induction bytes generalizing j s with
  | nil =>
    refine ⟨s.din, ?_, fun _ _ _ => rfl, fun i _ h h' => absurd h' (by simpa using h)⟩
    rw [show rest = s.pending from hp.symm]
    rfl
  | cons v bytes ih =>
    have hj : j < 8 := by rw [List.length_cons] at hfit; omega
    have hwrite : step s = .next { s with
        din := s.din.set j v, pending := eventsOf (writeBytes (0x28 + (j + 1)) bytes) ++ rest } :=
      step_of_access_next hp (hostWrite_din hj v _)
    obtain ⟨din, hrun, hbefore, hfilled⟩ := ih (j + 1)
      { s with din := s.din.set j v, pending := eventsOf (writeBytes (0x28 + (j + 1)) bytes) ++ rest }
      (by rw [List.length_cons] at hfit; omega) hok rfl
    refine ⟨din, ⟨_, hwrite, hok, hrun⟩, fun i hi hlt => ?before, fun i hi hle hlt => ?filled⟩
    case before => rw [hbefore i hi (by omega), Vector.getElem_set_ne _ _ (by omega)]
    case filled =>
      rcases Nat.eq_or_lt_of_le hle with rfl | hlt'
      · rw [hbefore j hi (by omega), Vector.getElem_set_self]
        simp
      · rw [hfilled i hi hlt' (by rw [List.length_cons] at hlt; omega), show i - j = i - (j + 1) + 1 by omega]
        rfl

/-- The reads of `n` bytes of DOUT from byte `j` on: the host learns those bytes in order. -/
theorem runsOk_readDout (n j : Nat) (rest : List HostEvent) (s : State) (hfit : j + n ≤ 8) (hok : s.err = .ok)
    (hp : s.pending = eventsOf (readBytes (0x30 + j) n) ++ rest) :
    RunsOk n s { s with pending := rest, observed := s.observed ++ ((s.dout.toList.drop j).take n).map .data } := by
  induction n generalizing j s with
  | zero =>
    rw [show rest = s.pending from hp.symm, List.take_zero, List.map_nil, List.append_nil]
    rfl
  | succ n ih =>
    have hj : j < 8 := by omega
    have hread : step s = .next { s with
        pending := eventsOf (readBytes (0x30 + (j + 1)) n) ++ rest, observed := s.observed ++ [.data s.dout[j]] } := by
      refine step_of_access_next hp ?_
      rw [access, hostRead_dout hj]
      rfl
    refine ⟨_, hread, hok, ?_⟩
    have hrest := ih (j + 1) { s with
        pending := eventsOf (readBytes (0x30 + (j + 1)) n) ++ rest, observed := s.observed ++ [.data s.dout[j]] }
        (by omega) hok rfl
    rw [List.drop_eq_getElem_cons (i := j) (by simpa using hj), List.take_succ_cons, List.map_cons]
    simpa using hrest

/-! ### One chunk is one pass (R141, R145 to R148) -/

section
variable {chunk : List Byte} {din : Block} (hfit : chunk.length ≤ 8)
  (hdin : ∀ (i : Nat) (_ : i < 8), i < chunk.length → din[i] = chunk.getD i 0#8)
include hfit hdin

/-- The output bytes of a chunk that stands in DIN are the output of a pass over it. -/
theorem chunkOutput_take (sbox : SBox) (key : KeyFile) (fb : Block) :
    (chunkOutput chunk.length din (blockTransform sbox key fb)).toList.take chunk.length = passOutput sbox key fb chunk := by
  apply List.ext_getElem
  · rw [length_passOutput, List.length_take, Vector.length_toList, Nat.min_comm]
  · intro j hj _
    have hlt : j < chunk.length := by rw [List.length_take] at hj; omega
    have hj8 : j < 8 := by omega
    rw [List.getElem_take, Vector.getElem_toList, chunkOutput_getElem _ _ _ _ hj8, if_pos hlt, hdin j hj8 hlt]
    simp [passOutput, hlt]

/-- The feedback value after a chunk that stands in DIN is the feedback of a pass over it. -/
theorem nextFeedback_eq_passFeedback (sbox : SBox) (key : KeyFile) (mode : Direction) (fb : Block) :
    nextFeedback chunk.length mode din (chunkOutput chunk.length din (blockTransform sbox key fb)) =
      passFeedback sbox key mode fb chunk := by
  refine Vector.ext fun j hj => ?_
  rw [nextFeedback_getElem]
  cases mode with
  | encrypt =>
    rw [passFeedback, padBlock_getElem, ← chunkOutput_take hfit hdin, feedbackSource_encrypt]
    split <;> simp [*]
  | decrypt =>
    rw [passFeedback, padBlock_getElem, List.take_of_length_le hfit, feedbackSource_decrypt]
    split
    case isTrue hlt => exact hdin j hj hlt
    case isFalse hge => exact (List.getD_eq_default _ _ (by omega)).symm

end

/-- What the host's accesses for one chunk have done: one pass of the transform, its output read. -/
structure ChunkDone (chunk : List Byte) (rest : List HostEvent) (s t : State) : Prop where
  pending : t.pending = rest
  err : t.err = .ok
  k : t.k = s.k
  mode : t.mode = s.mode
  active : chunk.length = 8 → t.active = true
  fb : t.fb = passFeedback Config.sbox s.k s.mode s.fb chunk
  observed : t.observed = s.observed ++ (passOutput Config.sbox s.k s.fb chunk).map .data

theorem programEvents_append (p q : List Stmt) : programEvents (p ++ q) = programEvents p ++ programEvents q := by
  simp only [programEvents, expandProgram, List.flatMap_append, List.map_append]

/-- The accesses for one chunk, in their order (R149). -/
theorem programEvents_chunkProgram (chunk : List Byte) : programEvents (chunkProgram chunk) =
    eventsOf (writeBytes 0x28 chunk) ++ (eventsOf (commandAccesses 0x05#8 (BitVec.ofNat 8 chunk.length)) ++
      eventsOf (readBytes 0x30 chunk.length)) := by
  simp only [programEvents, expandProgram, chunkProgram, Stmt.expand, List.flatMap_cons, List.flatMap_nil, List.append_nil,
    List.map_append]

theorem length_programEvents_chunkProgram (chunk : List Byte) :
    (programEvents (chunkProgram chunk)).length = chunk.length + (2 + chunk.length) := by
  simp only [programEvents_chunkProgram, List.length_append, List.length_map, length_writeBytes, length_readBytes]
  rfl

/-- With LEN at `n`, the CMD write of CFBCHUNK processes a chunk of `n` bytes. -/
theorem step_of_cfbchunk {n : Nat} {rest : List HostEvent} {s : State} (hpos : 1 ≤ n) (hle : n ≤ 8)
    (hactive : s.active = true) (hlen : s.len = BitVec.ofNat 8 n) (hp : s.pending = .access (.write 0x38#6 0x05#8) :: rest) :
    step s = .next ((chunkStep Config.sbox n (s.setPending rest)).setErr .ok) := by
  obtain ⟨hword, _⟩ := cfbchunkResult
  have hd : decode (s.len ++ 0x05#8) = .command (.cfbchunk n) := by
    rw [hlen, ← commandWord_eq, hword, toNat_ofNat_byte (by omega)]
  exact (stepRunsCommand _ _ rest s hp hd).trans (exec_cfbchunk_runs hpos hle hactive)

/-- The two accesses of `cfbchunk n` process a chunk of `n` bytes in a transform in progress. -/
theorem runsOk_cfbchunk {n : Nat} {events : List HostEvent} {s : State} (hpos : 1 ≤ n) (hle : n ≤ 8)
    (hactive : s.active = true) (hok : s.err = .ok)
    (hp : s.pending = eventsOf (commandAccesses 0x05#8 (BitVec.ofNat 8 n)) ++ events) :
    RunsOk 2 s ((chunkStep Config.sbox n { s with len := BitVec.ofNat 8 n, pending := events }).setErr .ok) := by
  have hlen : step s = .next { s with len := BitVec.ofNat 8 n, pending := .access (.write 0x38#6 0x05#8) :: events } :=
    step_of_access_next hp (hostWrite_len _ _)
  exact ⟨_, hlen, hok, runsOk_one (step_of_cfbchunk hpos hle hactive rfl rfl) rfl⟩

/-- A chunk of 1 to 8 bytes in a transform in progress is one pass, and every access for it ends with ERR = OK. -/
theorem runsOk_chunk (chunk : List Byte) (rest : List HostEvent) (s : State) (hpos : 1 ≤ chunk.length)
    (hfit : chunk.length ≤ 8) (hactive : s.active = true) (hok : s.err = .ok)
    (hp : s.pending = programEvents (chunkProgram chunk) ++ rest) :
    ∃ t, RunsOk (programEvents (chunkProgram chunk)).length s t ∧ ChunkDone chunk rest s t := by
  rw [length_programEvents_chunkProgram]
  rw [programEvents_chunkProgram, List.append_assoc, List.append_assoc] at hp
  obtain ⟨din, hwrites, _, hfilled⟩ := runsOk_writeDin chunk 0 _ s (by omega) hok hp
  have hdin (i : Nat) (hi : i < 8) (hlt : i < chunk.length) : din[i] = chunk.getD i 0#8 :=
    hfilled i hi (by omega) (by omega)
  have hprocess := runsOk_cfbchunk (events := eventsOf (readBytes 0x30 chunk.length) ++ rest)
    (s := { s with din := din, pending := _ }) hpos hfit hactive hok rfl
  have hreads := runsOk_readDout chunk.length 0 rest ((chunkStep Config.sbox chunk.length { s with
    din := din, len := BitVec.ofNat 8 chunk.length, pending := eventsOf (readBytes 0x30 chunk.length) ++ rest }).setErr .ok)
    (by omega) rfl rfl
  refine ⟨_, hwrites.trans (hprocess.trans hreads), rfl, rfl, rfl, rfl, fun hfull => ?active, ?feedback, ?output⟩
  case active => exact (chunkStep_active_eq_decide Config.sbox hfit hactive).trans (decide_eq_true hfull)
  case feedback => exact nextFeedback_eq_passFeedback hfit hdin Config.sbox s.k s.mode s.fb
  case output => exact congrArg (s.observed ++ List.map .data ·) (chunkOutput_take hfit hdin Config.sbox s.k s.fb)

/-! ### The stream (R141, R149) -/

theorem passFeedback_take (sbox : SBox) (key : KeyFile) (dir : Direction) (fb : Block) (bytes : List Byte) :
    passFeedback sbox key dir fb (bytes.take 8) = passFeedback sbox key dir fb bytes := by
  cases dir with
  | encrypt => exact congrArg padBlock (passOutput_take ..)
  | decrypt => exact congrArg padBlock (by rw [List.take_take, Nat.min_self])

/-- The accesses for the chunks of a stream, from a transform in progress, are the passes over it. -/
theorem runsOk_chunks (passes : Nat) (bytes : List Byte) (rest : List HostEvent) (s : State)
    (hpasses : passes = cfbPassCount bytes.length) (hactive : 0 < passes → s.active = true) (hok : s.err = .ok)
    (hp : s.pending = programEvents ((streamChunks passes bytes).flatMap chunkProgram) ++ rest) :
    ∃ t, RunsOk (programEvents ((streamChunks passes bytes).flatMap chunkProgram)).length s t ∧ t.pending = rest ∧
      t.observed = s.observed ++ (cfbPasses Config.sbox s.k s.mode passes s.fb bytes).map .data := by
  induction passes generalizing bytes s with
  | zero => exact ⟨s, rfl, hp, (List.append_nil _).symm⟩
  | succ passes ih =>
    rw [streamChunks, List.flatMap_cons, programEvents_append] at hp ⊢
    unfold cfbPassCount at hpasses
    have hchunk : (bytes.take 8).length = min 8 bytes.length := List.length_take
    obtain ⟨u, hrun, hdone⟩ := runsOk_chunk (bytes.take 8) _ s (by omega) (by omega) (hactive (Nat.succ_pos _)) hok
      (hp.trans (List.append_assoc ..))
    obtain ⟨t, hrun', hrest, hobs⟩ := ih (bytes.drop 8) u (by rw [List.length_drop, cfbPassCount]; omega)
      (fun hmore => hdone.active (by omega)) hdone.err hdone.pending
    refine ⟨t, by rw [List.length_append]; exact hrun.trans hrun', hrest, ?_⟩
    rw [hobs, hdone.observed, hdone.k, hdone.mode, hdone.fb, passOutput_take, passFeedback_take, cfbPasses_succ_eq,
      List.map_append, List.append_assoc]

/-- With a key and an IV loaded, the CMD write of CFBINIT starts a transform from the IV. -/
theorem step_of_cfbinit {dir : Direction} {rest : List HostEvent} {s : State} (hkeyv : s.keyv = true) (hivv : s.ivv = true)
    (hp : s.pending = .access (.write 0x38#6 (cfbinitByte dir)) :: rest) :
    step s = .next (((s.setPending rest).startTransform dir).setErr .ok) := by
  obtain ⟨hword, hstarts, _⟩ := cfbinitResult
  have hd : decode (s.len ++ cfbinitByte dir) = .command (.cfbinit s.len.toNat dir) := by
    cases dir with
    | encrypt => exact (hword s.len).1
    | decrypt => exact (hword s.len).2
  exact (stepRunsCommand _ _ rest s hp hd).trans (hstarts _ dir _ hkeyv hivv)

/-- Settles O34: CFBINIT starts a transform from the IV, and then each chunk is one pass over the stream. -/
theorem commandSequenceIsTransform : Obligations.CommandSequenceIsTransform := by
  intro dir bytes rest s hkeyv hivv hp
  have hstart : RunsOk 1 s _ := runsOk_one (step_of_cfbinit hkeyv hivv hp) rfl
  obtain ⟨t, hrun, hrest, hobs⟩ := runsOk_chunks _ bytes rest
    (((s.setPending _).startTransform dir).setErr .ok) rfl (fun _ => rfl) rfl rfl
  have hall := hstart.trans hrun
  rw [Nat.add_comm] at hall
  exact ⟨⟨t, hall.reaches, hrest, hobs⟩, hall.err_ok⟩

end Sys2Proof.Machine
end

section
/-! The proof that a hidden register not covered by its valid bit is never observable (10_state.md section 4). Two states that
the host cannot tell apart are one state with other values in K, IVREG and FB. Those values pass through every command, or
are overwritten alike, or are read only under the valid bit that makes them equal. -/

namespace Sys2Proof.Machine

/-! ### States that differ in the hidden registers -/

/-- Other values in the three hidden registers (R35 to R37). -/
def State.setHidden (s : State) (k : KeyFile) (iv fb : Block) : State := { s with k := k, ivreg := iv, fb := fb }

/-- Values that agree where a valid bit covers them cannot be told apart. -/
theorem sameToHost_setHidden {s : State} {k : KeyFile} {iv fb : Block} (hk : s.keyv = true → s.k = k)
    (hiv : s.ivv = true → s.ivreg = iv) (hfb : s.active = true → s.fb = fb) : SameToHost s (s.setHidden k iv fb) :=
  ⟨rfl, rfl, rfl, rfl, rfl, rfl, rfl, rfl, rfl, rfl, rfl, rfl, hk, hiv, hfb⟩

/-- Two states that look alike are one state with two choices of the hidden registers. -/
theorem SameToHost.exists_setHidden {s s' : State} (h : SameToHost s s') :
    ∃ k iv fb, s' = s.setHidden k iv fb ∧ (s.keyv = true → s.k = k) ∧ (s.ivv = true → s.ivreg = iv) ∧
      (s.active = true → s.fb = fb) := by
  obtain ⟨h1, h2, h3, h4, h5, h6, h7, h8, h9, h10, h11, h12, hk, hiv, hfb⟩ := h
  refine ⟨s'.k, s'.ivreg, s'.fb, ?_, hk, hiv, hfb⟩
  rw [State.setHidden, h1, h2, h3, h4, h5, h6, h7, h8, h9, h10, h11, h12]

theorem SameToHost.observed_eq {s s' : State} (h : SameToHost s s') : s.observed = s'.observed := by
  obtain ⟨_, _, _, rfl, _⟩ := h.exists_setHidden
  rfl

/-- No read shows a hidden register (R189). -/
theorem hostRead_setHidden (off : Offset) (s : State) (k : KeyFile) (iv fb : Block) :
    hostRead off (s.setHidden k iv fb) = hostRead off s := readsHideSecrets off s s.keybuf k iv fb

theorem readRecord_setHidden (off : Offset) (s : State) (k : KeyFile) (iv fb : Block) :
    readRecord off (s.setHidden k iv fb) = readRecord off s := by
  rw [readRecord, hostRead_setHidden, readRecord]

/-! ### Every event keeps the likeness -/

/-- Two outcomes that are next states the host cannot tell apart. -/
def NextAlike (o o' : Host.Outcome State Fault Refusal) : Prop :=
  ∃ t t', o = .next t ∧ o' = .next t' ∧ SameToHost t t'

theorem nextAlike_of_same {t t' : State} (h : SameToHost t t') : NextAlike (.next t) (.next t') :=
  ⟨t, t', rfl, rfl, h⟩

theorem SameToHost.setErr {s s' : State} (h : SameToHost s s') (e : ErrCode) : SameToHost (s.setErr e) (s'.setErr e) := by
  obtain ⟨k, iv, fb, rfl, hk, hiv, hfb⟩ := h.exists_setHidden
  exact sameToHost_setHidden (s := s.setErr e) hk hiv hfb

/-- A command passes its checks when each of them holds. -/
theorem firstFailure_eq_none {checks : List Check} (h : firstFailure checks = none) : ∀ c ∈ checks, c.holds = true := by
  induction checks with
  | nil => simp
  | cons c rest ih =>
    rw [firstFailure_cons] at h
    split at h
    · exact List.forall_mem_cons.mpr ⟨‹_›, ih h⟩
    · cases h

/-- One command on both sides: the same checks, and effects that are alike where the checks hold. -/
theorem runCommand_nextAlike {checks : List Check} {effect effect' : State → State} {s s' : State} (h : SameToHost s s')
    (heffect : (∀ c ∈ checks, c.holds = true) → SameToHost (effect s) (effect' s')) :
    NextAlike (runCommand checks effect s) (runCommand checks effect' s') := by
  rw [runCommand_eq, runCommand_eq]
  cases hchecks : firstFailure checks with
  | some code => exact nextAlike_of_same (h.setErr code)
  | none => exact nextAlike_of_same ((heffect (firstFailure_eq_none hchecks)).setErr .ok)

/-- Each command reads K under KEYV, IVREG under IVV and FB under ACTIVE, and R40 gives CFBCHUNK the key. -/
theorem exec_nextAlike (i : Instr) {s s' : State} (hloaded : ActiveLoaded s) (h : SameToHost s s') :
    NextAlike (exec i s) (exec i s') := by
  obtain ⟨k, iv, fb, rfl, hk, hiv, hfb⟩ := h.exists_setHidden
  cases i with
  | ldkey len =>
    rw [exec_ldkey, exec_ldkey, execLdkey, execLdkey]
    exact runCommand_nextAlike h fun _ =>
      sameToHost_setHidden (s := s.loadKey (keyWords s.keybuf)) (fun _ => rfl) hiv nofun
  | eblk len =>
    rw [exec_eblk, exec_eblk, execEblk, execEblk]
    refine runCommand_nextAlike h fun hchecks => ?_
    obtain rfl := hk (hchecks ⟨s.keyv, .keyNotLoaded⟩ (by simp))
    exact sameToHost_setHidden (s := s.putBlock (blockTransform Config.sbox s.k s.din)) hk hiv hfb
  | ldiv len =>
    rw [exec_ldiv, exec_ldiv, execLdiv, execLdiv]
    exact runCommand_nextAlike h fun _ => sameToHost_setHidden (s := s.loadIv s.ivbuf) hk (fun _ => rfl) nofun
  | cfbinit len dir =>
    rw [exec_cfbinit, exec_cfbinit, execCfbinit, execCfbinit]
    refine runCommand_nextAlike h fun hchecks => ?_
    exact sameToHost_setHidden (s := s.startTransform dir) hk hiv fun _ => hiv (hchecks ⟨s.ivv, .ivNotLoaded⟩ (by simp))
  | cfbchunk len =>
    rw [exec_cfbchunk, exec_cfbchunk, execCfbchunk, execCfbchunk]
    refine runCommand_nextAlike h fun hchecks => ?_
    have hactive := hchecks ⟨s.active, .cfbNotActive⟩ (by simp)
    obtain ⟨hkeyv, _⟩ := hloaded hactive
    obtain rfl := hk hkeyv
    obtain rfl := hfb hactive
    exact sameToHost_setHidden (s := chunkStep Config.sbox len s) hk hiv fun _ => rfl

/-- LEN and the command byte are the same on both sides, so the same command is issued, or the same illegal word. -/
theorem issueCommand_nextAlike (c : Byte) {s s' : State} (hloaded : ActiveLoaded s) (h : SameToHost s s') :
    NextAlike (issueCommand c s) (issueCommand c s') := by
  have hlen : s'.len = s.len := by
    obtain ⟨_, _, _, rfl, _⟩ := h.exists_setHidden
    rfl
  rw [issueCommand, issueCommand, hlen]
  split
  · exact exec_nextAlike _ hloaded h
  · exact nextAlike_of_same (h.setErr _)

/-- A host write faults on both sides, or leaves the two alike. -/
theorem hostWrite_alike (off : Offset) (v : Byte) {s s' : State} (hloaded : ActiveLoaded s) (h : SameToHost s s') :
    NextAlike (hostWrite off v s) (hostWrite off v s') ∨
      (hostWrite off v s = .fault (.busError off) ∧ hostWrite off v s' = .fault (.busError off)) := by
  have hcmd : regAt off = .cmd → NextAlike (hostWrite off v s) (hostWrite off v s') := by
    intro hreg
    rw [hostWrite, hostWrite, hreg]
    exact issueCommand_nextAlike v hloaded h
  obtain ⟨k, iv, fb, rfl, hk, hiv, hfb⟩ := h.exists_setHidden
  cases hreg : regAt off with
  | cmd => exact .inl (hcmd hreg)
  | keybuf j =>
    rw [hostWrite, hostWrite, hreg]
    exact .inl (nextAlike_of_same (sameToHost_setHidden (s := { s with keybuf := s.keybuf.set j.val v }) hk hiv hfb))
  | ivbuf j =>
    rw [hostWrite, hostWrite, hreg]
    exact .inl (nextAlike_of_same (sameToHost_setHidden (s := { s with ivbuf := s.ivbuf.set j.val v }) hk hiv hfb))
  | din j =>
    rw [hostWrite, hostWrite, hreg]
    exact .inl (nextAlike_of_same (sameToHost_setHidden (s := { s with din := s.din.set j.val v }) hk hiv hfb))
  | len =>
    rw [hostWrite, hostWrite, hreg]
    exact .inl (nextAlike_of_same (sameToHost_setHidden (s := { s with len := v }) hk hiv hfb))
  | dout | status | err | unmapped =>
    rw [hostWrite, hostWrite, hreg]
    exact .inr ⟨rfl, rfl⟩

/-- A step from two states that look alike leads to two that look alike. -/
theorem step_nextAlike {s s' : State} (hloaded : ActiveLoaded s) (h : SameToHost s s') : NextAlike (step s) (step s') := by
  obtain ⟨k, iv, fb, rfl, hk, hiv, hfb⟩ := h.exists_setHidden
  cases hp : s.pending with
  | nil =>
    rw [idleKeepsState s hp, idleKeepsState (s.setHidden k iv fb) hp]
    exact nextAlike_of_same h
  | cons e rest =>
    have hrest : SameToHost (s.setPending rest) ((s.setHidden k iv fb).setPending rest) :=
      sameToHost_setHidden (s := s.setPending rest) hk hiv hfb
    have hobserve (o : Observation) :
        SameToHost ((s.setPending rest).observe o) (((s.setHidden k iv fb).setPending rest).observe o) :=
      sameToHost_setHidden (s := (s.setPending rest).observe o) hk hiv hfb
    match e with
    | .reset =>
      rw [resetStep rest s hp, resetStep rest (s.setHidden k iv fb) hp]
      exact nextAlike_of_same (sameToHost_setHidden (s := (s.setPending rest).resetCore) nofun nofun nofun)
    | .access (.read off) =>
      have hrecord : readRecord off ((s.setHidden k iv fb).setPending rest) = readRecord off (s.setPending rest) :=
        readRecord_setHidden off (s.setPending rest) k iv fb
      rw [step_of_read hp, step_of_read (s := s.setHidden k iv fb) hp, hrecord]
      exact nextAlike_of_same (hobserve _)
    | .access (.write off v) =>
      rcases hostWrite_alike off v (s := s.setPending rest) hloaded hrest with ⟨t, t', ht, ht', hsame⟩ | ⟨hf, hf'⟩
      · exact ⟨t, t', step_of_access_next hp ht, step_of_access_next hp ht', hsame⟩
      · rw [step_of_access_fault hp hf, step_of_access_fault (s := s.setHidden k iv fb) hp hf']
        exact nextAlike_of_same (hobserve _)

/-- Runs from two states that look alike end in two that look alike. -/
theorem reaches_sameToHost {n : Nat} {s s' t : State} (hloaded : ActiveLoaded s) (h : SameToHost s s')
    (hrun : Reaches n s t) : ∃ t', Reaches n s' t' ∧ SameToHost t t' := by
  induction n generalizing s s' with
  | zero =>
    obtain rfl := reaches_zero.mp hrun
    exact ⟨s', reaches_zero.mpr rfl, h⟩
  | succ n ih =>
    obtain ⟨u, hu, hrun⟩ := reaches_succ.mp hrun
    obtain ⟨v, u', hv, hu', hsame⟩ := step_nextAlike hloaded h
    obtain rfl : u = v := Host.Outcome.next.inj (hu.symm.trans hv)
    obtain ⟨t', ht', hlast⟩ := ih (step_keeps_activeLoaded s u hloaded hu) hsame hrun
    exact ⟨t', reaches_succ.mpr ⟨u', hu', ht'⟩, hlast⟩

/-- Settles O56: what the host has learned is among what two states that look alike agree on. -/
theorem hiddenRegistersUnobservable : Obligations.HiddenRegistersUnobservable := by
  intro n s s' t hloaded h hrun
  obtain ⟨t', ht', hsame⟩ := reaches_sameToHost hloaded h hrun
  exact ⟨t', ht', hsame, hsame.observed_eq⟩

end Sys2Proof.Machine
end
